-- ==== Sys2Proof/Word.lean ====
section
/-! DEFINITION. The words of the Telzum 4120: the widths its registers and frames use (00_scope.md section 4). -/

namespace Sys2Proof

/-- A byte on the link, on the management port or in a record. -/
abbrev Byte := BitVec 8

/-- A 32-bit byte address of the local bus, an item's value, a counter. -/
abbrev Word := BitVec 32

/-- A sequence number, taken modulo 65536. -/
abbrev Seq := BitVec 16

/-- An epoch, compared for equality only. -/
abbrev Epoch := BitVec 8

/-- The tag of a fence. -/
abbrev Tag := BitVec 8

/-- A stream identifier, 0 to 15. -/
abbrev StreamId := BitVec 4

/-- The index of a window table entry, 0 to 7. -/
abbrev WinIdx := Fin 8

end Sys2Proof
end

