-- ==== Sys2Proof/Config.lean ====
section
/-! DEFINITION. What the part fixes (00_scope.md section 4, R170), and the one free value: what the status items read in the
fields beside a code of absence, which the spec does not state (notes/assumptions/12.md). -/

namespace Sys2Proof.Config

/-- The journal's slots (R39). -/
def journalSlots : Nat := 256

/-- Records a sink holds ahead of applying (R125). -/
def receiveWindow : Nat := 4

/-- Chunks the seed engine walks in a row while others wait (R71). -/
def seedQuantum : Nat := 16

/-- Sends of an OPEN, REOPEN or CLOSE (R105). -/
def controlTries : Nat := 3

/-- The version a HELLO of this part carries (R82). -/
def linkVersion : Byte := 1#8

/-- The identification item (R170): part 4120h, revision 01h, link protocol version 1. -/
def identification : Word := 0x41200101#32

/-- FREE VALUE (notes/assumptions/12.md; safe): the bits of the n-th read of a status item whose fields may describe something
absent (R171). -/
opaque absentFields (n : Nat) : Word

end Sys2Proof.Config
end

