-- ==== Sys2Proof/Syntax.lean ====
section
/-! DEFINITION. The commands of the part: one constructor of `Instr` for each row of spec/opcode_table.json, with the
operands the rules give the row's event. -/

namespace Sys2Proof

/-- The form of a local bus access (section 1.1): a single size in bytes, or a burst length in beats of 4 bytes. An
ill-formed one is still an access the master can present (R2). -/
inductive Shape where
  | single (size : Nat)
  | burst (beats : Nat)
  deriving DecidableEq, Repr

/-- The direction of an access; a write brings its data. Byte i of the access, counted from its address upward, is bits
8i+7 to 8i of `data`. -/
inductive Dir where
  | read
  | write (data : BitVec 512)
  deriving DecidableEq, Repr

/-- An access of the local bus master (R1). -/
structure Access where
  addr  : Word
  dir   : Dir
  shape : Shape
  deriving DecidableEq, Repr

/-- A record's kind (R41). -/
inductive RecKind where
  | write | seed | mark | seedEnd
  deriving DecidableEq, Repr

/-- A record's place in a group (R41). -/
inductive RecPos where
  | whole | first | middle | last
  deriving DecidableEq, Repr

/-- What a RECORD frame carries of a record (frame layout of section 5.3); the data length is the length of `data`. -/
structure RecBody where
  seq    : Seq
  kind   : RecKind
  pos    : RecPos
  offset : Word
  tag    : Tag
  data   : List Byte
  deriving DecidableEq, Repr

/-- The reason byte of OPEN (section 5.3). -/
inductive OpenReason where
  | new | reseed
  deriving DecidableEq, Repr

/-- The reason byte of OPEN_REFUSE (section 5.3). -/
inductive RefuseReason where
  | noWindow | notSink | lengthMismatch
  deriving DecidableEq, Repr

/-- The verdict byte of REOPEN_REPLY (section 5.3): CONTINUE or STALE. -/
inductive Verdict where
  | continues | stale
  deriving DecidableEq, Repr

/-- The reason byte of CLOSE (section 5.3). -/
inductive CloseCode where
  | fromLocal | notOpen | applyError
  deriving DecidableEq, Repr

/-- The body of a stream frame, by kind (frame layout of section 5.3). -/
inductive Body where
  | openReq (length : Word) (reason : OpenReason)
  | openAccept
  | openRefuse (reason : RefuseReason)
  | reopen (oldest next : Seq)
  | reopenReply (verdict : Verdict) (expected : Seq)
  | close (reason : CloseCode)
  | closeAck
  | promoted (lastApplied : Seq) (discarded : Byte)
  | record (r : RecBody)
  | ack (seq : Seq)
  | nak (seq : Seq)
  deriving DecidableEq, Repr

/-- A frame of the mirror link without its length byte and trailer, which follow from the rest (R91, R92). -/
inductive Frame where
  | hello (version : Byte) (heard : Bool)
  | keepalive
  | stream (id : StreamId) (epoch : Epoch) (body : Body)
  deriving DecidableEq, Repr

/-- The memory's answer to an operation (R18): OK or ERROR, or, with `late`, either of them to an operation that was begun
before the last pin reset (R20, R178; notes/assumptions/22.md). -/
inductive Answer where
  | ok | error | late
  deriving DecidableEq, Repr

/-- The four items of a window entry (R23), in the order of the item map. -/
inductive EntryItem where
  | mode | base | length | options
  deriving DecidableEq, Repr

/-- One constructor per row of spec/opcode_table.json. In the management rows `clocked` is the number of complete bytes
the processor clocks in the transaction before SCS_N rises (R165, R166). -/
inductive Instr where
  | accessPresented (a : Access)
  | accessGrant
  | accessAnswer (ans : Answer) (data : BitVec 512)
  | seedGrant
  | seedReadAnswer (ans : Answer) (data : BitVec 512)
  | applyGrant
  | applyAnswer (ans : Answer)
  | slotOfferHeldWrite
  | slotOfferSeed
  | holdTimerExpiry
  | pinResetAssert
  | pinResetRelease
  | tick
  | laneReadyRise
  | laneReadyFall
  | frameError (delivered : List Byte)
  | helloFrame (version : Byte) (heard : Bool)
  | keepaliveFrame
  | openFrame (id : StreamId) (epoch : Epoch) (length : Word) (reason : OpenReason)
  | openAcceptFrame (id : StreamId) (epoch : Epoch)
  | openRefuseFrame (id : StreamId) (epoch : Epoch) (reason : RefuseReason)
  | reopenFrame (id : StreamId) (epoch : Epoch) (oldest next : Seq)
  | reopenReplyFrame (id : StreamId) (epoch : Epoch) (verdict : Verdict) (expected : Seq)
  | closeFrameAtSource (id : StreamId) (epoch : Epoch) (reason : CloseCode)
  | closeFrameAtSink (id : StreamId) (epoch : Epoch) (reason : CloseCode)
  | closeAckFrame (id : StreamId) (epoch : Epoch)
  | promotedFrame (id : StreamId) (epoch : Epoch) (lastApplied : Seq) (discarded : Byte)
  | recordFrame (id : StreamId) (epoch : Epoch) (r : RecBody)
  | ackFrame (id : StreamId) (epoch : Epoch) (seq : Seq)
  | nakFrame (id : StreamId) (epoch : Epoch) (seq : Seq)
  | helloTimerExpiry
  | silenceTimerExpiry
  | keepaliveTimerExpiry
  | retransmitTimerExpiry (id : StreamId)
  | controlTimerExpiry (id : StreamId)
  | ackTimerExpiry (id : StreamId)
  | transmissionBegin
  | transmissionEnd
  | readItem (item : BitVec 16) (clocked : Nat)
  | streamStatusRead (id : StreamId) (clocked : Nat)
  | writeItem (item : BitVec 16) (value : Word) (clocked : Nat)
  | windowEntryWrite (index : WinIdx) (item : EntryItem) (value : Word) (clocked : Nat)
  | eventMaskWrite (value : Word) (clocked : Nat)
  | linkEnableWrite (value : Word) (clocked : Nat)
  | journalLowWrite (value : Word) (clocked : Nat)
  | ackEveryWrite (value : Word) (clocked : Nat)
  | tickDivisorWrite (value : Word) (clocked : Nat)
  | openOperation (id argument : Byte) (clocked : Nat)
  | closeOperation (id argument : Byte) (clocked : Nat)
  | sinkCloseOperation (id argument : Byte) (clocked : Nat)
  | reseedOperation (id argument : Byte) (clocked : Nat)
  | fenceOperation (id tag : Byte) (clocked : Nat)
  | promoteOperation (id argument : Byte) (clocked : Nat)
  | ackEvents (causes : BitVec 16) (clocked : Nat)
  | linkRestart (clocked : Nat)
  | deviceReset (clocked : Nat)
  | softReset
  | badCommand (command : Byte) (later : List Byte)
  deriving DecidableEq, Repr

end Sys2Proof
end

