-- ==== Sys2Proof/Decode.lean ====
section
/-! DEFINITION. Commands spelled by the bits of spec/opcode_table.json. No row of the table gives bits, so no word spells a
command (notes/assumptions/13.md). -/

namespace Sys2Proof

/-- The command a word spells by the table's bits: none, since no row has any. -/
def decodeTableWord (_nbits _w : Nat) : Option Instr :=
  none

end Sys2Proof
end

