-- ==== Sys2Proof/Machine/State.lean ====
section
/-! DEFINITION. The state of the part as plain data, block by block (00_scope.md section 3), and its values after pin
reset (R20, R37, R60, R78, R81, R100, R143, R163, R177, R178). Times left on timers are counted in ticks; `none` is a
stopped timer and `some 0` one whose expiry is due (R172). -/

namespace Sys2Proof.Machine

/-- What stops the part: nothing does. Every event the spec describes leaves a next state, so there is no constructor. -/
inductive Fault where
  deriving DecidableEq, Repr

/-- What has no meaning. -/
inductive Refusal where
  /-- Raised by an arm of `exec` for a command that has no meaning yet; safe. No arm raises it. -/
  | notModelled (mnemonic : String)
  deriving DecidableEq, Repr

/-! ### Access unit, memory arbiter and memory port (The Memory Path) -/

/-- The three requesters for the memory port (R17). -/
inductive Requester where
  | access | seed | apply
  deriving DecidableEq, Repr

/-- Slots reserved for an access or a chunk, against the stream of window `win` (R45). -/
structure Resv where
  win   : WinIdx
  slots : Nat
  deriving DecidableEq, Repr

/-- A response given to the master (R3). -/
structure Response where
  ok   : Bool
  data : List Byte
  deriving DecidableEq, Repr

/-- The local bus port as the master sees it: the access it holds presented and not yet taken, and every response it has
been given, the latest first (notes/assumptions/4.md). -/
structure Bus where
  presented : Option Access
  responses : List Response
  deriving DecidableEq, Repr

/-- A write journaled at its grant: the window and the epoch of its stream (R10, R19). -/
structure Journaled where
  win   : WinIdx
  epoch : Epoch
  deriving DecidableEq, Repr

/-- Where the access unit rests between steps (section 1.1); ACCEPTED and COMPLETE are passed through inside a step. -/
inductive AccessPhase where
  | idle
  | waitSlots (a : Access) (win : WinIdx)
  | requesting (a : Access)
  | granted (a : Access) (journaled : Option Journaled)
  deriving DecidableEq, Repr

/-- The access unit (R1, R9, R13). -/
structure AccessUnit where
  phase     : AccessPhase
  resv      : Option Resv
  holdTimer : Option Nat
  deriving DecidableEq, Repr

/-- One operation on the memory port (R18): a read of `len` bytes, or a write of `bytes`, at `addr`. -/
structure MemOp where
  requester : Requester
  addr      : Word
  isWrite   : Bool
  len       : Nat
  bytes     : List Byte
  deriving DecidableEq, Repr

/-- The memory arbiter (R17): the ranking, highest first, and the operation that holds the port. Requests waiting are
the phases REQUESTING and PORT_WAIT of the three requesters. -/
structure Arbiter where
  order : List Requester
  op    : Option MemOp
  deriving DecidableEq, Repr

/-! ### Window table, contexts and journal records -/

/-- A record's status (R43). -/
inductive RecStatus where
  | filling | ready | inFlight
  deriving DecidableEq, Repr

/-- A record of the journal (R41); `data` is absent while the record is FILLING. -/
structure Record where
  stream     : StreamId
  seq        : Seq
  kind       : RecKind
  pos        : RecPos
  offset     : Word
  length     : Nat
  data       : Option (List Byte)
  tag        : Option Tag
  status     : RecStatus
  sentBefore : Bool
  deriving DecidableEq, Repr

/-- SEEDING or LIVE, the states a suspended context returns to (R32, R35). -/
inductive Prior where
  | seeding | live
  deriving DecidableEq, Repr

/-- The states of a source context (R34). -/
inductive SrcState where
  | closed | pending | opening | seeding | live | suspended | resuming | closing | fault
  deriving DecidableEq, Repr

/-- How a fence ended (R58). -/
inductive FenceOutcome where
  | completed | abandoned
  deriving DecidableEq, Repr

/-- The fault reasons of a source context (R32). -/
inductive FaultReason where
  | none | noReply | noProgress | refusedNoWindow | refusedNotSink | refusedLength | peerClosed | peerPromoted
  | memoryError
  deriving DecidableEq, Repr

/-- A source context (R32) with its journal queue (R40). Its record count is the length of `queue`; its reserved count
is the sum of the holders' reservations. -/
structure SourceCtx where
  state         : SrcState
  prior         : Prior
  openReason    : Option OpenReason
  epoch         : Epoch
  nextSeq       : Seq
  oldest        : Seq
  txPtr         : Seq
  queue         : List Record
  cursor        : Nat
  retxTimer     : Option Nat
  retryCount    : Nat
  ctlTimer      : Option Nat
  triesLeft     : Nat
  fence         : Option Tag
  lastFence     : Option (FenceOutcome × Tag)
  faultReason   : FaultReason
  diverged      : Bool
  recordsSent   : Word
  retransmitted : Word
  merges        : Word
  reseeds       : Word
  deriving DecidableEq, Repr

/-- The states of a sink context (R36). -/
inductive SinkState where
  | closed | seeding | live | suspended
  deriving DecidableEq, Repr

/-- Why a sink context closed (R35). -/
inductive CloseReason where
  | none | peer | localClose | applyError
  deriving DecidableEq, Repr

/-- A record of a receive window: waiting, or under an apply operation (R125). -/
structure Held where
  body    : RecBody
  underOp : Bool
  deriving DecidableEq, Repr

/-- A sink context (R35); `held` is its receive window, in sequence order from `expected`. -/
structure SinkCtx where
  state          : SinkState
  prior          : Prior
  epoch          : Epoch
  expected       : Seq
  held           : List Held
  ackCount       : Nat
  ackTimer       : Option Nat
  nakOutstanding : Bool
  closeReason    : CloseReason
  applied        : Word
  duplicates     : Word
  beyond         : Word
  naksSent       : Word
  deriving DecidableEq, Repr

/-- The role of a window: its MODE together with the context that MODE owns (R29). -/
inductive Role where
  | off
  | source (c : SourceCtx)
  | sink (c : SinkCtx)
  deriving DecidableEq, Repr

/-- The PROMOTION record (R22). -/
structure Promotion where
  epoch       : Epoch
  lastApplied : Seq
  discarded   : Nat
  deriving DecidableEq, Repr

/-- What a journaled write does when it cannot obtain slots (R22). -/
inductive Policy where
  | hold | spill
  deriving DecidableEq, Repr

/-- An entry of the window table (R22). -/
structure Entry where
  role      : Role
  base      : Word
  length    : Word
  stream    : StreamId
  policy    : Policy
  quota     : Nat
  readGuard : Bool
  yieldOn   : Bool
  promotion : Option Promotion
  deriving DecidableEq, Repr

/-! ### Seed engine and apply engine -/

/-- The phases of the seed engine (section 4.2). -/
inductive SeedPhase where
  | idle | slotWait | portWait | reading | endWait
  deriving DecidableEq, Repr

/-- The chunk read in flight: its stream's window, the first of its four records, whether a fifth slot is held for
SEED_END, and whether the records have been discarded (R68, R75). -/
structure Flight where
  win    : WinIdx
  first  : Seq
  fifth  : Bool
  orphan : Bool
  deriving DecidableEq, Repr

/-- The seed engine and the seed queue (R63). Streams are named by the window that owns their context. -/
structure SeedEngine where
  phase      : SeedPhase
  active     : Option WinIdx
  chunkCount : Nat
  resv       : Option Resv
  flight     : Option Flight
  queue      : List WinIdx
  deriving DecidableEq, Repr

/-- The phases of the apply engine (R131). -/
inductive ApplyPhase where
  | idle | portWait | writing
  deriving DecidableEq, Repr

/-- The stream the apply engine serves, its epoch at the choice and the records of the head (R131). -/
structure Served where
  win   : WinIdx
  id    : StreamId
  epoch : Epoch
  recs  : List RecBody
  deriving DecidableEq, Repr

/-- The apply engine (R131). -/
structure ApplyEngine where
  phase  : ApplyPhase
  served : Option Served
  last   : StreamId
  deriving DecidableEq, Repr

/-! ### Link controller and transmit scheduler -/

/-- The states of the link (R81). -/
inductive LinkState where
  | down | training | up
  deriving DecidableEq, Repr

/-- The link counters (R95). -/
structure LinkCounters where
  framesSent        : Word
  framesReceived    : Word
  crcErrors         : Word
  formatErrors      : Word
  versionMismatches : Word
  staleFrames       : Word
  deriving DecidableEq, Repr

/-- The link controller (R81); LINK_ENABLE stands among the settings. -/
structure Link where
  state          : LinkState
  heard          : Bool
  helloTimer     : Option Nat
  silenceTimer   : Option Nat
  keepaliveTimer : Option Nat
  helloDue       : Bool
  keepaliveDue   : Bool
  laneReady      : Bool
  counters       : LinkCounters
  deriving DecidableEq, Repr

/-- A control frame standing in a control slot, complete with its epoch and body (R97). -/
structure CtlFrame where
  epoch : Epoch
  body  : Body
  deriving DecidableEq, Repr

/-- An ACK or NAK standing in an acknowledgement flag (R98). -/
structure AckFlag where
  isNak : Bool
  seq   : Seq
  epoch : Epoch
  deriving DecidableEq, Repr

/-- The transmit scheduler (R96 to R98): control slots and acknowledgement flags by stream identifier, the last-served
identifiers, the frame in transmission, and the last frame that left the lane with whether it was delivered (R80). -/
structure Sched where
  ctl     : Vector (Option CtlFrame) 16
  ack     : Vector (Option AckFlag) 16
  lastCtl : StreamId
  lastAck : StreamId
  lastRec : StreamId
  tx      : Option Frame
  sent    : Option (Frame × Bool)
  deriving DecidableEq, Repr

/-! ### Event unit, management port, settings -/

/-- The event unit (R154 to R161). Bit n of a 13-bit field stands for cause position n; bit n of `notice` for stream n. -/
structure EventUnit where
  pending  : BitVec 13
  ackMem   : BitVec 13
  unmasked : BitVec 13
  cond     : BitVec 13
  notice   : BitVec 16
  deriving DecidableEq, Repr

/-- The result codes of the management port (section 10.1). -/
inductive Result where
  | done | refusedBusy | refusedState | refusedConflict | refusedRange | refusedNoSpace | badItem | readOnly
  | badCommand
  deriving DecidableEq, Repr

/-- The transaction the management port holds (R165). -/
structure Txn where
  count   : Nat
  command : Byte
  deriving DecidableEq, Repr

/-- The management port (R165, R176): the transaction in progress, the soft reset that is due, the result code the last
transaction fixed, and the bytes SDO carried in it. -/
structure Port where
  txn      : Option Txn
  resetDue : Bool
  result   : Option Result
  sdo      : List Byte
  deriving DecidableEq, Repr

/-- The settings (R172 table). -/
structure Settings where
  tickDivisor       : Nat
  holdLimit         : Nat
  retxTimeout       : Nat
  retxLimit         : Nat
  controlTimeout    : Nat
  ackEvery          : Nat
  ackDelay          : Nat
  helloInterval     : Nat
  keepaliveInterval : Nat
  silenceLimit      : Nat
  journalLow        : Nat
  linkEnable        : Bool
  deriving DecidableEq, Repr

/-- The release of slots of the event in progress that the slot arbiter has not yet offered to the held write or to the
seed engine (R47). DESIGN CHOICE (notes/assumptions/2.md): the model's own record of an event in progress; safe. -/
structure Offers where
  held : Bool
  seed : Bool
  deriving DecidableEq, Repr

/-- The whole part, and the queue of commands that wait. `freeReads` is the model's own: it counts the reads of items +6 and
+7, each of which takes a free value of its own for the fields of what is absent (notes/assumptions/12.md). -/
structure State where
  pending    : List Instr
  resetLow   : Bool
  bus        : Bus
  acc        : AccessUnit
  arb        : Arbiter
  windows    : Vector Entry 8
  seed       : SeedEngine
  apply      : ApplyEngine
  link       : Link
  sched      : Sched
  ev         : EventUnit
  port       : Port
  settings   : Settings
  tickLength : Nat
  offers     : Offers
  freeReads  : Nat
  deriving DecidableEq, Repr

/-- A window entry at pin reset (R37): STREAM equals the index. -/
def resetEntry (id : StreamId) : Entry :=
  { role := .off, base := 0#32, length := 64#32, stream := id, policy := .hold, quota := 64, readGuard := false,
    yieldOn := false, promotion := none }

/-- The settings at pin reset (R172 table). -/
def resetSettings : Settings :=
  { tickDivisor := 25, holdLimit := 1000, retxTimeout := 200, retxLimit := 8, controlTimeout := 1000, ackEvery := 8,
    ackDelay := 20, helloInterval := 100, keepaliveInterval := 100, silenceLimit := 500, journalLow := 32,
    linkEnable := false }

/-- Zero link counters (R95). -/
def zeroCounters : LinkCounters :=
  { framesSent := 0#32, framesReceived := 0#32, crcErrors := 0#32, formatErrors := 0#32, versionMismatches := 0#32,
    staleFrames := 0#32 }

/-- The part right after the release of RESET_N (R178): every block at its pin reset values. -/
def State.reset : State :=
  { pending := []
    resetLow := false
    bus := { presented := none, responses := [] }
    acc := { phase := .idle, resv := none, holdTimer := none }
    arb := { order := [.access, .seed, .apply], op := none }
    windows := #v[resetEntry 0#4, resetEntry 1#4, resetEntry 2#4, resetEntry 3#4, resetEntry 4#4, resetEntry 5#4,
      resetEntry 6#4, resetEntry 7#4]
    seed := { phase := .idle, active := none, chunkCount := 0, resv := none, flight := none, queue := [] }
    apply := { phase := .idle, served := none, last := 15#4 }
    link := { state := .down, heard := false, helloTimer := none, silenceTimer := none, keepaliveTimer := none,
              helloDue := false, keepaliveDue := false, laneReady := false, counters := zeroCounters }
    sched := { ctl := Vector.replicate 16 none, ack := Vector.replicate 16 none, lastCtl := 15#4, lastAck := 15#4,
               lastRec := 15#4, tx := none, sent := none }
    ev := { pending := 0#13, ackMem := 0#13, unmasked := 0#13, cond := 0#13, notice := 0#16 }
    port := { txn := none, resetDue := false, result := none, sdo := [] }
    settings := resetSettings
    tickLength := 25
    offers := { held := false, seed := false }
    freeReads := 0 }

end Sys2Proof.Machine
end

