-- ==== Sys2Proof/Machine/Operands.lean ====
section
/-! DEFINITION. The operand forms: accesses and their bytes (R2, R8, R18), the modular order of sequence numbers
(00_scope.md section 6), byte strings most significant byte first, and the fields of the management items (R170). -/

namespace Sys2Proof

/-- Byte i of the bytes a wide word carries is bits 8i+7 to 8i; the first `n` of them. -/
def bytesOf (n : Nat) (v : BitVec 512) : List Byte :=
  (List.range n).map fun i => v.extractLsb' (8 * i) 8

/-- The number of bytes an access covers (section 1.1). -/
def Access.size (a : Access) : Nat :=
  match a.shape with
  | .single n => n
  | .burst n => 4 * n

/-- Whether an access is a write. -/
def Access.isWrite (a : Access) : Bool :=
  match a.dir with
  | .read => false
  | .write _ => true

/-- The data bytes of a write, fixed at its acceptance (R1); a read has none. -/
def Access.bytes (a : Access) : List Byte :=
  match a.dir with
  | .read => []
  | .write v => bytesOf a.size v

/-- The form check of R2. -/
def Access.formOk (a : Access) : Bool :=
  match a.shape with
  | .single n => (n == 1 || n == 2 || n == 4) && a.addr.toNat % n == 0
  | .burst n => 2 ≤ n && n ≤ 16 && a.addr.toNat % 4 == 0 && a.addr.toNat % 64 + 4 * n ≤ 64

/-- The number k of records a write needs (R8, R49): one for a single write, one for each 16-byte piece of a burst. -/
def Access.slots (a : Access) : Nat :=
  match a.shape with
  | .single _ => 1
  | .burst n => (4 * n + 15) / 16

/-- a precedes b in the modular order of sequence numbers. -/
def seqPrecedes (a b : Seq) : Bool :=
  1 ≤ (b - a).toNat && (b - a).toNat ≤ 32767

/-- a ≤ b in the modular order of sequence numbers. -/
def seqLe (a b : Seq) : Bool :=
  a == b || seqPrecedes a b

/-- The two bytes of a 16-bit field, most significant first. -/
def be16 (x : BitVec 16) : List Byte :=
  [x.extractLsb' 8 8, x.extractLsb' 0 8]

/-- The four bytes of a 32-bit field, most significant first. -/
def be32 (x : Word) : List Byte :=
  [x.extractLsb' 24 8, x.extractLsb' 16 8, x.extractLsb' 8 8, x.extractLsb' 0 8]

/-- A 16-bit field from its two bytes, most significant first. -/
def word16 (hi lo : Byte) : BitVec 16 :=
  hi ++ lo

/-- A 32-bit field from its four bytes, most significant first. -/
def word32 (b3 b2 b1 b0 : Byte) : Word :=
  b3 ++ b2 ++ b1 ++ b0

/-- `n` as a field that starts at bit `lo` of an item. -/
def putField (n lo : Nat) : Word :=
  BitVec.ofNat 32 n <<< lo

/-- A flag as a field of one bit. -/
def putFlag (b : Bool) (lo : Nat) : Word :=
  putField b.toNat lo

/-- The field of an item from bit `lo` over `width` bits. -/
def getField (v : Word) (lo width : Nat) : Nat :=
  (v.extractLsb' lo width).toNat

end Sys2Proof
end

