-- ==== Sys2Proof/Machine/Flags.lean ====
section
/-! DEFINITION. The event unit: causes, pending latches, acknowledges, conditions, the attention line and the notice set
(R154 to R164). -/

namespace Sys2Proof.Machine

/-- The thirteen causes, in the order of their positions (R154). -/
inductive Cause where
  | linkUp | linkDown | streamLive | streamReseed | streamFault | streamClosed | fenceDone | writeRefused
  | readRefused | frameError | journalLow | holding | memoryError
  deriving DecidableEq, Repr

/-- A cause's position (R154). -/
def Cause.position : Cause → Nat
  | .linkUp => 0
  | .linkDown => 1
  | .streamLive => 2
  | .streamReseed => 3
  | .streamFault => 4
  | .streamClosed => 5
  | .fenceDone => 6
  | .writeRefused => 7
  | .readRefused => 8
  | .frameError => 9
  | .journalLow => 10
  | .holding => 11
  | .memoryError => 12

/-- The bit of a cause. -/
def Cause.bit (c : Cause) : BitVec 13 :=
  1#13 <<< c.position

/-- Raising a pulse cause sets its latch (R155). -/
def EventUnit.raise (c : Cause) (e : EventUnit) : EventUnit :=
  { e with pending := e.pending ||| c.bit }

/-- The event unit's view of its conditions after an event that leaves them at `now` (R156, R157): a condition that has
become true sets its latch and, if the latch was clear, clears its acknowledge memory; one that has ended clears its
latch and memory if the memory is set. -/
def EventUnit.judge (now : BitVec 13) (e : EventUnit) : EventUnit :=
  let rise := now &&& ~~~ e.cond
  let fall := e.cond &&& ~~~ now
  { e with
    pending := (e.pending ||| rise) &&& ~~~ (fall &&& e.ackMem)
    ackMem := e.ackMem &&& ~~~ (rise &&& ~~~ e.pending) &&& ~~~ fall
    cond := now }

/-- An acknowledge of the causes whose bits are set (R155, R156, R158). A pulse cause has no condition, so its latch
clears; a condition's latch clears if the condition is false, and is remembered if it is true and the latch set. -/
def EventUnit.acknowledge (causes : BitVec 13) (e : EventUnit) : EventUnit :=
  { e with
    pending := e.pending &&& ~~~ (causes &&& ~~~ e.cond)
    ackMem := e.ackMem ||| (causes &&& e.pending &&& e.cond) }

/-- The attention line is active exactly when at least one pending cause is unmasked (R160). -/
def EventUnit.attention (e : EventUnit) : Bool :=
  e.pending &&& e.unmasked != 0#13

/-- Adding a stream to the notice set (R161). -/
def EventUnit.addNotice (id : StreamId) (e : EventUnit) : EventUnit :=
  { e with notice := e.notice ||| (1#16 <<< id.toNat) }

/-- Removing a stream from the notice set (R162). -/
def EventUnit.dropNotice (id : StreamId) (e : EventUnit) : EventUnit :=
  { e with notice := e.notice &&& ~~~ (1#16 <<< id.toNat) }

/-- Every latch and acknowledge memory clear, the notice set empty and the conditions to be judged afresh; the masks
keep their values (R164). -/
def EventUnit.softReset (e : EventUnit) : EventUnit :=
  { e with pending := 0#13, ackMem := 0#13, cond := 0#13, notice := 0#16 }

/-- Raising a pulse cause in the part. -/
def raise (c : Cause) (s : State) : State :=
  { s with ev := s.ev.raise c }

/-- Adding a stream to the notice set in the part. -/
def addNotice (id : StreamId) (s : State) : State :=
  { s with ev := s.ev.addNotice id }

/-- ATTN_N is driven low: never while RESET_N is asserted (R160). -/
def attnLow (s : State) : Bool :=
  !s.resetLow && s.ev.attention

end Sys2Proof.Machine
end

