-- ==== Sys2Proof/Machine/Frames.lean ====
section
/-! DEFINITION. Frames as bytes: the frame layout of section 5.3 (R91), the CRC-32 (R92) and the receive checks (R93). -/

namespace Sys2Proof

/-- One bit of the CRC computation: the polynomial 04C11DB7h, most significant bit first (R92). -/
def crcBit (r : Word) : Word :=
  if r.msb then (r <<< 1) ^^^ 0x04C11DB7#32 else r <<< 1

/-- One byte of the CRC computation (R92). -/
def crcByte (r : Word) (b : Byte) : Word :=
  let r := r ^^^ (b.setWidth 32 <<< 24)
  crcBit (crcBit (crcBit (crcBit (crcBit (crcBit (crcBit (crcBit r)))))))

/-- The CRC-32 over header and body: preset to FFFF FFFFh, the final remainder inverted (R92). -/
def crc32 (bs : List Byte) : Word :=
  ~~~ (bs.foldl crcByte 0xFFFFFFFF#32)

/-- The record kind codes (section 5.3). -/
def RecKind.code : RecKind → Byte
  | .write => 1#8
  | .seed => 2#8
  | .mark => 3#8
  | .seedEnd => 4#8

/-- The record position codes (section 5.3). -/
def RecPos.code : RecPos → Byte
  | .whole => 0#8
  | .first => 1#8
  | .middle => 2#8
  | .last => 3#8

/-- The kind a code names, if any. -/
def RecKind.ofCode (n : Nat) : Option RecKind :=
  match n with
  | 1 => some .write
  | 2 => some .seed
  | 3 => some .mark
  | 4 => some .seedEnd
  | _ => none

/-- The position a code names, if any. -/
def RecPos.ofCode (n : Nat) : Option RecPos :=
  match n with
  | 0 => some .whole
  | 1 => some .first
  | 2 => some .middle
  | 3 => some .last
  | _ => none

/-- The kind byte of a stream frame (section 5.3). -/
def Body.code : Body → Byte
  | .openReq _ _ => 0x10#8
  | .openAccept => 0x11#8
  | .openRefuse _ => 0x12#8
  | .reopen _ _ => 0x13#8
  | .reopenReply _ _ => 0x14#8
  | .close _ => 0x15#8
  | .closeAck => 0x16#8
  | .promoted _ _ => 0x17#8
  | .record _ => 0x20#8
  | .ack _ => 0x21#8
  | .nak _ => 0x22#8

/-- The reason byte of OPEN. -/
def OpenReason.code : OpenReason → Byte
  | .new => 1#8
  | .reseed => 2#8

/-- The reason byte of OPEN_REFUSE. -/
def RefuseReason.code : RefuseReason → Byte
  | .noWindow => 1#8
  | .notSink => 2#8
  | .lengthMismatch => 3#8

/-- The verdict byte of REOPEN_REPLY. -/
def Verdict.code : Verdict → Byte
  | .continues => 1#8
  | .stale => 2#8

/-- The reason byte of CLOSE. -/
def CloseCode.code : CloseCode → Byte
  | .fromLocal => 1#8
  | .notOpen => 2#8
  | .applyError => 3#8

/-- The body bytes of a stream frame (section 5.3). -/
def Body.bytes : Body → List Byte
  | .openReq len reason => be32 len ++ [reason.code]
  | .openAccept => []
  | .openRefuse reason => [reason.code]
  | .reopen o n => be16 o ++ be16 n
  | .reopenReply v e => [v.code] ++ be16 e
  | .close reason => [reason.code]
  | .closeAck => []
  | .promoted l d => be16 l ++ [d]
  | .record r =>
      be16 r.seq ++ [r.kind.code <<< 4 ||| r.pos.code, BitVec.ofNat 8 r.data.length] ++ be32 r.offset ++ [r.tag] ++ r.data
  | .ack s => be16 s
  | .nak s => be16 s

/-- The four header bytes and the body (R91): kind, stream byte, epoch byte, body length, body. -/
def Frame.headerAndBody : Frame → List Byte
  | .hello version heard => [0x01#8, 0xFF#8, 0#8, 2#8] ++ [version, if heard then 1#8 else 0#8]
  | .keepalive => [0x02#8, 0xFF#8, 0#8, 0#8]
  | .stream id epoch body =>
      [body.code, id.setWidth 8, epoch, BitVec.ofNat 8 body.bytes.length] ++ body.bytes

/-- The frame as sent: header, body and trailer (R91, R92). -/
def Frame.toBytes (f : Frame) : List Byte :=
  f.headerAndBody ++ be32 (crc32 f.headerAndBody)

/-- What R93 asks of a RECORD's own fields. -/
def RecBody.formatOk (r : RecBody) : Bool :=
  match r.kind with
  | .write | .seed => 1 ≤ r.data.length && r.data.length ≤ 16
  | .mark | .seedEnd => r.pos == .whole && r.data.length == 0

/-- The format checks of R93 on the fields of a frame whose coded bytes name layout values. -/
def Frame.formatOk : Frame → Bool
  | .stream _ _ (.promoted _ d) => d.toNat ≤ 4
  | .stream _ _ (.record r) => r.formatOk
  | _ => true

/-- The open reason a byte names. -/
def OpenReason.ofCode (n : Nat) : Option OpenReason :=
  match n with
  | 1 => some .new
  | 2 => some .reseed
  | _ => none

/-- The refusal reason a byte names. -/
def RefuseReason.ofCode (n : Nat) : Option RefuseReason :=
  match n with
  | 1 => some .noWindow
  | 2 => some .notSink
  | 3 => some .lengthMismatch
  | _ => none

/-- The verdict a byte names. -/
def Verdict.ofCode (n : Nat) : Option Verdict :=
  match n with
  | 1 => some .continues
  | 2 => some .stale
  | _ => none

/-- The CLOSE reason a byte names. -/
def CloseCode.ofCode (n : Nat) : Option CloseCode :=
  match n with
  | 1 => some .fromLocal
  | 2 => some .notOpen
  | 3 => some .applyError
  | _ => none

/-- The body of a RECORD from its bytes; `none` is a format error (R93). -/
def parseRecord : List Byte → Option Body
  | s1 :: s0 :: kp :: len :: o3 :: o2 :: o1 :: o0 :: tag :: data =>
      match RecKind.ofCode (kp.toNat / 16), RecPos.ofCode (kp.toNat % 16) with
      | some kind, some pos =>
          if data.length = len.toNat then
            some (.record { seq := word16 s1 s0, kind := kind, pos := pos, offset := word32 o3 o2 o1 o0, tag := tag,
                            data := data })
          else none
      | _, _ => none
  | _ => none

/-- The body of a stream frame from its kind byte and body bytes; `none` is a format error: a kind the layout does not
name, a body length it does not give, or a coded byte it does not name (R93). -/
def parseBody (code : Nat) (body : List Byte) : Option Body :=
  match code, body with
  | 0x10, [l3, l2, l1, l0, r] => (OpenReason.ofCode r.toNat).map fun r => .openReq (word32 l3 l2 l1 l0) r
  | 0x11, [] => some .openAccept
  | 0x12, [r] => (RefuseReason.ofCode r.toNat).map .openRefuse
  | 0x13, [o1, o0, n1, n0] => some (.reopen (word16 o1 o0) (word16 n1 n0))
  | 0x14, [v, e1, e0] => (Verdict.ofCode v.toNat).map fun v => .reopenReply v (word16 e1 e0)
  | 0x15, [r] => (CloseCode.ofCode r.toNat).map .close
  | 0x16, [] => some .closeAck
  | 0x17, [l1, l0, d] => some (.promoted (word16 l1 l0) d)
  | 0x20, bs => parseRecord bs
  | 0x21, [s1, s0] => some (.ack (word16 s1 s0))
  | 0x22, [s1, s0] => some (.nak (word16 s1 s0))
  | _, _ => none

/-- The frame from its header fields and body bytes; `none` is a format error (R93). -/
def parseFrame (kind id epoch : Byte) (body : List Byte) : Option Frame :=
  let parsed : Option Frame :=
    match kind.toNat, body with
    | 0x01, [v, h] =>
        if id = 0xFF#8 then
          if h = 0#8 then some (.hello v false) else if h = 1#8 then some (.hello v true) else none
        else none
    | 0x02, [] => if id = 0xFF#8 then some .keepalive else none
    | code, body =>
        if id.toNat ≤ 15 then (parseBody code body).map fun b => .stream (id.setWidth 4) epoch b else none
  match parsed with
  | some f => if f.formatOk then some f else none
  | none => none

/-- What the receive checker makes of a delivered frame (R93). -/
inductive Delivery where
  | crcError
  | formatError
  | valid (f : Frame)
  deriving DecidableEq, Repr

/-- The two stages of the receive checker (R93). A delivery too short to hold a body length byte fails the first stage
(DEDUCED: its number of bytes is not 4 plus a body length plus 4; notes/assumptions/11.md). -/
def receiveCheck (bs : List Byte) : Delivery :=
  match bs with
  | kind :: id :: epoch :: len :: rest =>
      if rest.length = len.toNat + 4 ∧ len.toNat ≤ 32
          ∧ rest.drop len.toNat = be32 (crc32 (kind :: id :: epoch :: len :: rest.take len.toNat)) then
        match parseFrame kind id epoch (rest.take len.toNat) with
        | some f => .valid f
        | none => .formatError
      else .crcError
  | _ => .crcError

end Sys2Proof
end

