-- ==== Sys2Proof/Machine/Ops.lean ====
section
/-! DEFINITION. The shared operations on the state: the window table's lookups (R4, R31), the journal's counts and
reservation test (R39, R44), the slot arbiter's release (R47), the memory arbiter (R17), the scheduler's slots and flags
(R97, R98), and the link counters (R95). -/

namespace Sys2Proof.Machine

/-! ### The window table -/

/-- The eight window indexes. -/
def allWindows : List WinIdx := [0, 1, 2, 3, 4, 5, 6, 7]

/-- Entry `i` of the window table. -/
def State.entry (s : State) (i : WinIdx) : Entry :=
  s.windows[i]

/-- The state with entry `i` replaced. -/
def State.setEntry (s : State) (i : WinIdx) (e : Entry) : State :=
  { s with windows := s.windows.set i e }

/-- A window is enabled when its MODE is SOURCE or SINK (section 1.2). -/
def Entry.enabled (e : Entry) : Bool :=
  match e.role with
  | .off => false
  | .source _ => true
  | .sink _ => true

/-- The source context an entry owns, if its MODE is SOURCE. -/
def State.source? (s : State) (i : WinIdx) : Option SourceCtx :=
  match (s.entry i).role with
  | .source c => some c
  | _ => none

/-- The sink context an entry owns, if its MODE is SINK. -/
def State.sink? (s : State) (i : WinIdx) : Option SinkCtx :=
  match (s.entry i).role with
  | .sink c => some c
  | _ => none

/-- The state with the role of entry `i` replaced. -/
def State.setRole (s : State) (i : WinIdx) (r : Role) : State :=
  s.setEntry i { s.entry i with role := r }

/-- A change of the source context of entry `i`; nothing where there is none. -/
def State.modSource (s : State) (i : WinIdx) (f : SourceCtx → SourceCtx) : State :=
  match s.source? i with
  | some c => s.setRole i (.source (f c))
  | none => s

/-- A change of the sink context of entry `i`; nothing where there is none. -/
def State.modSink (s : State) (i : WinIdx) (f : SinkCtx → SinkCtx) : State :=
  match s.sink? i with
  | some c => s.setRole i (.sink (f c))
  | none => s

/-- An address lies in a window when it is at least BASE and less than BASE plus LENGTH (section 1.2). -/
def Entry.contains (e : Entry) (addr : Word) : Bool :=
  e.base.toNat ≤ addr.toNat && addr.toNat < e.base.toNat + e.length.toNat

/-- The decode of an address (R4): the enabled window it lies in, if any. -/
def State.decode (s : State) (addr : Word) : Option WinIdx :=
  allWindows.find? fun i => (s.entry i).enabled && (s.entry i).contains addr

/-- The lookup by stream identifier (R31): the enabled entry that carries it, if any. -/
def State.lookup (s : State) (id : StreamId) : Option WinIdx :=
  allWindows.find? fun i => (s.entry i).enabled && (s.entry i).stream == id

/-- The identifier of the stream of window `i`. -/
def State.streamOf (s : State) (i : WinIdx) : StreamId :=
  (s.entry i).stream

/-- Adding the stream of window `i` to the notice set. -/
def noticeWin (i : WinIdx) (s : State) : State :=
  addNotice (s.streamOf i) s

/-! ### The journal's counts -/

/-- The slots a reservation holds against window `i`. -/
def slotsAgainst (r : Option Resv) (i : WinIdx) : Nat :=
  match r with
  | some r => if r.win = i then r.slots else 0
  | none => 0

/-- The slots a reservation holds. -/
def slotsOf (r : Option Resv) : Nat :=
  match r with
  | some r => r.slots
  | none => 0

/-- A stream's record count: the length of its queue (R40). -/
def State.recordCount (s : State) (i : WinIdx) : Nat :=
  match s.source? i with
  | some c => c.queue.length
  | none => 0

/-- A stream's reserved count: the sum of the two holders' reservations against it (R45). -/
def State.reservedCount (s : State) (i : WinIdx) : Nat :=
  slotsAgainst s.acc.resv i + slotsAgainst s.seed.resv i

/-- The slots that hold a record or a reservation (R39). -/
def State.usedSlots (s : State) : Nat :=
  (allWindows.map s.recordCount).sum + slotsOf s.acc.resv + slotsOf s.seed.resv

/-- The free count (R39). -/
def State.freeCount (s : State) : Nat :=
  Config.journalSlots - s.usedSlots

/-- The reservation test for `k` slots against the stream of window `i` (R44). -/
def State.reserveOk (s : State) (i : WinIdx) (k : Nat) : Bool :=
  k ≤ s.freeCount && s.recordCount i + s.reservedCount i + k ≤ (s.entry i).quota

/-! ### The slot arbiter -/

/-- A release of slots: both waiters are to be offered them (R47). -/
def release (s : State) : State :=
  { s with offers := { held := true, seed := true } }

/-- Whether a write is held in WAIT_SLOTS. -/
def State.isHeld (s : State) : Bool :=
  match s.acc.phase with
  | .waitSlots _ _ => true
  | _ => false

/-- Whether the seed engine waits for slots (R46). -/
def State.seedWaits (s : State) : Bool :=
  s.seed.phase == .slotWait || s.seed.phase == .endWait

/-- The offer to the held write is due (R47). -/
def State.heldOfferDue (s : State) : Bool :=
  s.offers.held && s.isHeld

/-- The offer to the seed engine is due (R47). -/
def State.seedOfferDue (s : State) : Bool :=
  s.offers.seed && s.seedWaits

/-! ### The memory arbiter -/

/-- Whether a requester has a request waiting (R17): ACCESS in REQUESTING, SEED and APPLY in PORT_WAIT. -/
def State.requests (s : State) (r : Requester) : Bool :=
  match r with
  | .access =>
      match s.acc.phase with
      | .requesting _ => true
      | _ => false
  | .seed => s.seed.phase == .portWait
  | .apply => s.apply.phase == .portWait

/-- The requester the arbiter is to grant: with the port free, the waiting one that ranks highest (R17). -/
def State.grantDue (s : State) : Option Requester :=
  match s.arb.op with
  | some _ => none
  | none => s.arb.order.find? s.requests

/-- The granted requester moves to the lowest place; the other two keep their order (R17). -/
def rotate (r : Requester) (s : State) : State :=
  { s with arb := { s.arb with order := s.arb.order.filter (· ≠ r) ++ [r] } }

/-- A memory operation takes the port (R18). -/
def beginOp (op : MemOp) (s : State) : State :=
  { s with arb := { s.arb with op := some op } }

/-- The port becomes free (R18). -/
def freePort (s : State) : State :=
  { s with arb := { s.arb with op := none } }

/-! ### Control slots, acknowledgement flags and link counters -/

/-- The place of a stream identifier in the scheduler's vectors. -/
def slotIdx (id : StreamId) : Fin 16 :=
  ⟨id.toNat, id.isLt⟩

/-- The control slot of a stream. -/
def State.ctlSlot (s : State) (id : StreamId) : Option CtlFrame :=
  s.sched.ctl[slotIdx id]

/-- The acknowledgement flag of a stream. -/
def State.ackFlag (s : State) (id : StreamId) : Option AckFlag :=
  s.sched.ack[slotIdx id]

/-- The state with a control slot replaced. -/
def setCtlSlot (id : StreamId) (f : Option CtlFrame) (s : State) : State :=
  { s with sched := { s.sched with ctl := s.sched.ctl.set (slotIdx id) f } }

/-- The state with an acknowledgement flag replaced. -/
def setAckFlag (id : StreamId) (f : Option AckFlag) (s : State) : State :=
  { s with sched := { s.sched with ack := s.sched.ack.set (slotIdx id) f } }

/-- Placing a control frame: taken while the link is UP, where it replaces an unsent one; not taken otherwise (R97). -/
def place (id : StreamId) (epoch : Epoch) (body : Body) (s : State) : State :=
  if s.link.state = .up then setCtlSlot id (some { epoch := epoch, body := body }) s else s

/-- Setting an acknowledgement flag: taken while the link is UP (R98). -/
def flag (id : StreamId) (f : AckFlag) (s : State) : State :=
  if s.link.state = .up then setAckFlag id (some f) s else s

/-- A change of the link controller. -/
def modLink (f : Link → Link) (s : State) : State :=
  { s with link := f s.link }

/-- A change of the link counters (R95); they wrap. -/
def modCounters (f : LinkCounters → LinkCounters) (s : State) : State :=
  modLink (fun l => { l with counters := f l.counters }) s

/-- A frame discarded as stale (R94). -/
def countStale (s : State) : State :=
  modCounters (fun c => { c with staleFrames := c.staleFrames + 1#32 }) s

/-- The first identifier after `last`, counting upward and wrapping from 15 to 0, that satisfies `p` (R96, R131). -/
def nextServed (last : StreamId) (p : StreamId → Bool) : Option StreamId :=
  ((List.range 16).map fun k => last + 1#4 + BitVec.ofNat 4 k).find? p

/-! ### Timers -/

/-- A tick boundary at a timer (R172): a running timer counts down; at zero its expiry is due. -/
def tickTimer (t : Option Nat) : Option Nat :=
  match t with
  | some (n + 1) => some n
  | t => t

end Sys2Proof.Machine
end

