-- ==== Sys2Proof/Machine/Source.lean ====
section
/-! DEFINITION. The source side of a stream and its journal: creating, freeing, rewinding and discarding records (The
Journal), and the transitions of a source context (Source Side of a Stream). -/

namespace Sys2Proof.Machine

/-- A source context at its creation (R32). -/
def newSource (epoch : Epoch) : SourceCtx :=
  { state := .closed, prior := .seeding, openReason := none, epoch := epoch, nextSeq := 0#16, oldest := 0#16,
    txPtr := 0#16, queue := [], cursor := 0, retxTimer := none, retryCount := 0, ctlTimer := none, triesLeft := 0,
    fence := none, lastFence := none, faultReason := .none, diverged := false, recordsSent := 0#32,
    retransmitted := 0#32, merges := 0#32, reseeds := 0#32 }

/-- A sink context at its creation (R35). -/
def newSink : SinkCtx :=
  { state := .closed, prior := .seeding, epoch := 0#8, expected := 0#16, held := [], ackCount := 0, ackTimer := none,
    nakOutstanding := false, closeReason := .none, applied := 0#32, duplicates := 0#32, beyond := 0#32,
    naksSent := 0#32 }

/-- The states in which a write asks for a reservation (R8). -/
def SrcState.journals : SrcState → Bool
  | .seeding | .live | .suspended | .resuming => true
  | _ => false

/-- Whether a write at `offset` needs records (R8). -/
def SourceCtx.needsRecords (c : SourceCtx) (offset : Nat) : Bool :=
  match c.state with
  | .seeding => offset < c.cursor
  | .live => true
  | .suspended | .resuming => c.prior == .live || offset < c.cursor
  | _ => false

/-! ### Records -/

/-- Records join the tail of a queue and take their numbers from next seq (R48). -/
def SourceCtx.push (c : SourceCtx) (rs : List Record) : SourceCtx :=
  { c with queue := c.queue ++ rs, nextSeq := c.nextSeq + BitVec.ofNat 16 rs.length }

/-- An IN_FLIGHT record becomes READY; FILLING and READY ones are left as they are (R54). -/
def Record.toReady (r : Record) : Record :=
  match r.status with
  | .inFlight => { r with status := .ready }
  | _ => r

/-- A rewind of the transmit pointer to `s` (R54). -/
def SourceCtx.rewind (c : SourceCtx) (s : Seq) : SourceCtx :=
  { c with txPtr := s, queue := c.queue.map fun r => if seqLe s r.seq then r.toReady else r }

/-- The record at the transmit pointer (R99). -/
def SourceCtx.atPtr (c : SourceCtx) : Option Record :=
  c.queue[(c.txPtr - c.oldest).toNat]?

/-! ### Fences -/

/-- A fence ends (R58): the fence becomes NONE, the outcome is kept, the stream joins the notice set, FENCE_DONE. -/
def endFence (i : WinIdx) (outcome : FenceOutcome) (tag : Tag) (s : State) : State :=
  raise .fenceDone (noticeWin i (s.modSource i fun c => { c with fence := none, lastFence := some (outcome, tag) }))

/-- An outstanding fence is abandoned (R55, R58). -/
def abandonFence (i : WinIdx) (s : State) : State :=
  match s.source? i with
  | some c =>
      match c.fence with
      | some tag => endFence i .abandoned tag s
      | none => s
  | none => s

/-! ### Freeing -/

/-- A SEED_END was freed: a stream in SEEDING goes to LIVE with STREAM_LIVE (R53, R110). -/
def seedEndFreed (i : WinIdx) (s : State) : State :=
  match s.source? i with
  | some c =>
      if c.state = .seeding then
        raise .streamLive (noticeWin i (s.modSource i fun c => { c with state := .live }))
      else s
  | none => s

/-- The tag of the MARK among freed records, if one is there. -/
def freedMark (gone : List Record) : Option Tag :=
  gone.findSome? fun r => if r.kind = .mark then r.tag else none

/-- Freeing every record before `e` (R52, R53): the records leave the head, oldest unacked becomes `e`, the slots are
released, a freed MARK completes the fence and a freed SEED_END ends the seeding. -/
def freeBefore (i : WinIdx) (e : Seq) (s : State) : State :=
  match s.source? i with
  | none => s
  | some c =>
      let n := (e - c.oldest).toNat
      let gone := c.queue.take n
      let s := s.modSource i fun c => { c with queue := c.queue.drop n, oldest := e }
      let s := if n = 0 then s else release s
      let s := match freedMark gone with
        | some tag => endFence i .completed tag s
        | none => s
      if gone.any (·.kind == .seedEnd) then seedEndFreed i s else s

/-! ### Discarding -/

/-- The seed engine without an active stream and with its reservation dropped, in IDLE (R66). -/
def SeedEngine.drop (e : SeedEngine) : SeedEngine :=
  { e with phase := .idle, active := none, chunkCount := 0, resv := none }

/-- A stream leaves the seed queue from wherever it stands (R65). -/
def SeedEngine.leaveQueue (i : WinIdx) (e : SeedEngine) : SeedEngine :=
  { e with queue := e.queue.filter (· ≠ i) }

/-- What a discard of stream `i` takes from the seed engine (R55, R65, R75): its place in the queue, the engine's wait,
request and reservation for it; a read in flight for it is orphaned and loses its fifth slot. -/
def SeedEngine.discard (i : WinIdx) (e : SeedEngine) : SeedEngine :=
  let e := e.leaveQueue i
  let e := if (e.flight.any fun f => f.win == i) then
      { e with flight := e.flight.map fun f => { f with fifth := false, orphan := true }, resv := none }
    else e
  if e.active = some i then
    if e.phase = .reading then { e with active := none, chunkCount := 0 } else e.drop
  else e

/-- What a discard of stream `i` takes from the access unit (R12, R16, R56): a reservation in REQUESTING, the hold of a
held write, and the journaling of a granted write. -/
def AccessUnit.discard (i : WinIdx) (a : AccessUnit) : AccessUnit :=
  let a := if slotsAgainst a.resv i = 0 then a else { a with resv := none }
  match a.phase with
  | .waitSlots acc w => if w = i then { a with phase := .requesting acc, holdTimer := none } else a
  | .granted acc (some j) => if j.win = i then { a with phase := .granted acc none } else a
  | _ => a

/-- The discard of a stream's journal, in one event (R55). -/
def discard (i : WinIdx) (s : State) : State :=
  let s := s.modSource i fun c => { c with queue := [], oldest := c.nextSeq, txPtr := c.nextSeq, cursor := 0 }
  let s := abandonFence i s
  release { s with acc := s.acc.discard i, seed := s.seed.discard i }

/-! ### Transitions -/

/-- Entering OPENING with an open reason (R33, R104). -/
def enterOpening (i : WinIdx) (reason : OpenReason) (s : State) : State :=
  match s.source? i with
  | none => s
  | some c =>
      let c' := { c with
        state := .opening, openReason := some reason, epoch := c.epoch + 1#8, nextSeq := 0#16, oldest := 0#16,
        txPtr := 0#16, cursor := 0, retryCount := 0, faultReason := .none, diverged := false, retxTimer := none,
        triesLeft := Config.controlTries - 1, ctlTimer := some s.settings.controlTimeout }
      let e := s.entry i
      place e.stream c'.epoch (.openReq e.length reason) (s.setEntry i { e with role := .source c', promotion := none })

/-- OPENING with the link UP, PENDING otherwise (R103, R113). -/
def openOrPend (i : WinIdx) (reason : OpenReason) (s : State) : State :=
  if s.link.state = .up then enterOpening i reason s
  else s.modSource i fun c => { c with state := .pending, openReason := some reason }

/-- Both timers of a source context stopped and no tries left (R113, R115, R118). -/
def SourceCtx.stopTimers (c : SourceCtx) : SourceCtx :=
  { c with retxTimer := none, ctlTimer := none, triesLeft := 0 }

/-- A reseed of a source stream, for any cause (R113). -/
def reseed (i : WinIdx) (s : State) : State :=
  let s := discard i s
  let s := s.modSource i fun c => { c.stopTimers with reseeds := c.reseeds + 1#32 }
  openOrPend i .reseed (raise .streamReseed (noticeWin i s))

/-- Entering FAULT (R115). -/
def faultStream (i : WinIdx) (reason : FaultReason) (s : State) : State :=
  let s := discard i s
  let s := s.modSource i fun c =>
    { c.stopTimers with state := .fault, openReason := none, faultReason := reason, diverged := true }
  raise .streamFault (noticeWin i s)

/-- Entering CLOSED (R118). -/
def enterClosed (i : WinIdx) (s : State) : State :=
  (discard i s).modSource i fun c => { c.stopTimers with state := .closed, openReason := none }

/-- Entering CLOSING (R117). -/
def enterClosing (i : WinIdx) (s : State) : State :=
  let s := discard i s
  let s := s.modSource i fun c =>
    { c with state := .closing, openReason := none, retxTimer := none, triesLeft := Config.controlTries - 1,
             ctlTimer := some s.settings.controlTimeout }
  match s.source? i with
  | some c => place (s.streamOf i) c.epoch (.close .fromLocal) s
  | none => s

/-- The control frame a state awaits the reply of, rebuilt from the context as it stands (R105). -/
def placeControl (i : WinIdx) (c : SourceCtx) (s : State) : State :=
  match c.state with
  | .opening =>
      place (s.streamOf i) c.epoch (.openReq (s.entry i).length (c.openReason.getD .new)) s
  | .resuming => place (s.streamOf i) c.epoch (.reopen c.oldest c.nextSeq) s
  | .closing => place (s.streamOf i) c.epoch (.close .fromLocal) s
  | _ => s

/-- Joining the tail of the seed queue (R64). -/
def joinSeedQueue (i : WinIdx) (s : State) : State :=
  { s with seed := { s.seed with queue := s.seed.queue ++ [i] } }

/-! ### The link leaves and enters UP -/

/-- What the seed engine does when its active stream is suspended (R74). -/
def SeedEngine.suspend (i : WinIdx) (e : SeedEngine) : SeedEngine :=
  let e := e.leaveQueue i
  if e.active = some i then
    match e.phase with
    | .slotWait | .portWait | .idle => e.drop
    | .reading => { e with active := none, chunkCount := 0 }
    | .endWait => e
  else e

/-- A SEEDING or LIVE stream is suspended (R54, R65, R74, R111); slots the engine returns are a release. -/
def suspendSource (i : WinIdx) (prior : Prior) (s : State) : State :=
  let s := s.modSource i fun c =>
    { c with state := .suspended, prior := prior, retxTimer := none, queue := c.queue.map Record.toReady }
  let s := if s.seed.phase = .portWait ∧ s.seed.active = some i then release s else s
  { s with seed := s.seed.suspend i }

/-- What a source context does when the link has left UP (R111). -/
def sourceLinkLeft (s : State) (i : WinIdx) : State :=
  match s.source? i with
  | none => s
  | some c =>
      match c.state with
      | .seeding => suspendSource i .seeding s
      | .live => suspendSource i .live s
      | .opening => s.modSource i fun c => { c with state := .pending, ctlTimer := none, triesLeft := 0 }
      | .resuming => s.modSource i fun c => { c with state := .suspended, ctlTimer := none, triesLeft := 0 }
      | .closing => enterClosed i s
      | _ => s

/-- What a source context does when the link is UP (R112). -/
def sourceLinkUp (s : State) (i : WinIdx) : State :=
  match s.source? i with
  | none => s
  | some c =>
      match c.state with
      | .pending => enterOpening i (c.openReason.getD .new) s
      | .suspended =>
          let s := s.modSource i fun c =>
            { c with state := .resuming, triesLeft := Config.controlTries - 1,
                     ctlTimer := some s.settings.controlTimeout }
          place (s.streamOf i) c.epoch (.reopen c.oldest c.nextSeq) s
      | _ => s

/-! ### Frames taken by a source context -/

/-- A CONTINUE verdict of a valid expected seq (R112). -/
def takeContinue (i : WinIdx) (e : Seq) (s : State) : State :=
  let s := s.modSource i fun c =>
    { c with retryCount := 0, state := match c.prior with | .seeding => .seeding | .live => .live }
  let s := freeBefore i e s
  let s := s.modSource i fun c => { c with txPtr := e }
  match s.source? i with
  | some c => if c.state = .seeding ∧ c.cursor < (s.entry i).length.toNat then joinSeedQueue i s else s
  | none => s

/-- A REOPEN_REPLY taken in RESUMING (R112): a CONTINUE outside the journal's range is taken as STALE. -/
def takeReopenReply (i : WinIdx) (c : SourceCtx) (v : Verdict) (e : Seq) (s : State) : State :=
  let s := s.modSource i fun c => { c with ctlTimer := none, triesLeft := 0 }
  if v = .continues ∧ (e - c.oldest).toNat ≤ (c.nextSeq - c.oldest).toNat then takeContinue i e s else reseed i s

/-- An ACK taken in SEEDING or LIVE (R108). -/
def takeAck (i : WinIdx) (c : SourceCtx) (a : Seq) (s : State) : State :=
  if (a - c.oldest).toNat < (c.txPtr - c.oldest).toNat then
    let t := if a + 1#16 = c.txPtr then none else some s.settings.retxTimeout
    let s := s.modSource i fun c => { c with retryCount := 0, retxTimer := t }
    freeBefore i (a + 1#16) s
  else countStale s

/-- A NAK taken in SEEDING or LIVE (R109). -/
def takeNak (i : WinIdx) (c : SourceCtx) (a : Seq) (s : State) : State :=
  if (a - c.oldest).toNat ≤ (c.txPtr - c.oldest).toNat then
    let s := freeBefore i a s
    s.modSource i fun d =>
      { d.rewind a with retxTimer := none, retryCount := if a = c.oldest then d.retryCount else 0 }
  else countStale s

/-- The yield of a source window (R150): a new CLOSED sink context; the stream joins the notice set. -/
def yieldWindow (i : WinIdx) (s : State) : State :=
  noticeWin i (s.setRole i (.sink newSink))

/-- The yield where the window's YIELD is on (R149). -/
def yieldIfOn (i : WinIdx) (s : State) : State :=
  if (s.entry i).yieldOn then yieldWindow i s else s

/-- A PROMOTED taken in SEEDING, LIVE or RESUMING (R149): free through `l`, fault, yield. R149 has software read `l` in the
faulted context's status, where R55 and R115 set oldest unacked and the transmit pointer to next seq; the fault's discard
follows R55, so that `l` does not stand there (DESIGN CHOICE, notes/assumptions/25.md). -/
def takePromoted (i : WinIdx) (c : SourceCtx) (l : Seq) (s : State) : State :=
  let e := l + 1#16
  let s := if (e - c.oldest).toNat ≤ (c.nextSeq - c.oldest).toNat then
      let ptr := if (c.txPtr - c.oldest).toNat < (e - c.oldest).toNat then e else c.txPtr
      (freeBefore i e s).modSource i fun d => { d with txPtr := ptr }
    else s
  yieldIfOn i (faultStream i .peerPromoted s)

/-- The fault reason that matches a refusal's reason byte (R106). -/
def RefuseReason.fault : RefuseReason → FaultReason
  | .noWindow => .refusedNoWindow
  | .notSink => .refusedNotSink
  | .lengthMismatch => .refusedLength

/-- A frame of the context's epoch, taken or discarded as stale by the context's state (R102, R149). -/
def takeAtSource (i : WinIdx) (c : SourceCtx) (b : Body) (s : State) : State :=
  match c.state, b with
  | .opening, .openAccept =>
      joinSeedQueue i (s.modSource i fun c =>
        { c with state := .seeding, ctlTimer := none, triesLeft := 0, openReason := none })
  | .opening, .openRefuse r => faultStream i (RefuseReason.fault r) s
  | .opening, .close _ => faultStream i .peerClosed s
  | .seeding, .ack a => takeAck i c a s
  | .seeding, .nak a => takeNak i c a s
  | .seeding, .close _ => faultStream i .peerClosed s
  | .seeding, .promoted l _ => takePromoted i c l s
  | .live, .ack a => takeAck i c a s
  | .live, .nak a => takeNak i c a s
  | .live, .close _ => faultStream i .peerClosed s
  | .live, .promoted l _ => takePromoted i c l s
  | .resuming, .reopenReply v e => takeReopenReply i c v e s
  | .resuming, .close _ => faultStream i .peerClosed s
  | .resuming, .promoted l _ => takePromoted i c l s
  | .closing, .closeAck => enterClosed i s
  | .closing, .close _ => enterClosed i s
  | .closing, .promoted _ _ => yieldIfOn i (enterClosed i s)
  | _, _ => countStale s

/-- A frame handed to the source stream controller for window `i` (R102): compared by epoch first. -/
def sourceFrame (i : WinIdx) (epoch : Epoch) (b : Body) (s : State) : State :=
  match s.source? i with
  | some c => if c.epoch = epoch then takeAtSource i c b s else countStale s
  | none => countStale s

/-! ### Timers of a source context -/

/-- Expiry of the retransmit timer (R107), which runs in SEEDING and LIVE (R34). -/
def retxExpired (i : WinIdx) (c : SourceCtx) (s : State) : State :=
  match c.state with
  | .seeding | .live =>
      if c.retryCount < s.settings.retxLimit then
        s.modSource i fun c => { c.rewind c.oldest with retryCount := c.retryCount + 1, retxTimer := none }
      else faultStream i .noProgress s
  | _ => s.modSource i fun c => { c with retxTimer := none }

/-- The same control frame is placed again, or the tries are exhausted with the effect given (R105). -/
def ctlAgain (i : WinIdx) (c : SourceCtx) (exhausted : State → State) (s : State) : State :=
  if 0 < c.triesLeft then
    placeControl i c (s.modSource i fun c =>
      { c with triesLeft := c.triesLeft - 1, ctlTimer := some s.settings.controlTimeout })
  else exhausted s

/-- Expiry of the control timer (R105), which runs in OPENING, RESUMING and CLOSING (R34). -/
def ctlExpired (i : WinIdx) (c : SourceCtx) (s : State) : State :=
  match c.state with
  | .opening | .resuming => ctlAgain i c (faultStream i .noReply) s
  | .closing => ctlAgain i c (enterClosed i) s
  | _ => s.modSource i fun c => { c with ctlTimer := none }

/-! ### Operations on a source context -/

/-- OPEN on a source context (R103). -/
def openSource (i : WinIdx) (c : SourceCtx) (s : State) : State × Result :=
  if c.state = .closed then (openOrPend i .new s, .done) else (s, .refusedState)

/-- CLOSE on a source context (R117). -/
def closeSource (i : WinIdx) (c : SourceCtx) (s : State) : State × Result :=
  match c.state with
  | .closed => (s, .refusedState)
  | .pending | .suspended | .fault | .closing => (enterClosed i s, .done)
  | .opening | .seeding | .live | .resuming => (enterClosing i s, .done)

/-- RESEED on a source context (R114). -/
def reseedSource (i : WinIdx) (c : SourceCtx) (s : State) : State × Result :=
  match c.state with
  | .seeding | .live | .suspended | .resuming | .fault => (reseed i s, .done)
  | .closed | .pending | .opening | .closing => (s, .refusedState)

/-- The MARK record of a fence (R42, R57). -/
def markRecord (id : StreamId) (seq : Seq) (tag : Tag) : Record :=
  { stream := id, seq := seq, kind := .mark, pos := .whole, offset := 0#32, length := 0, data := some [],
    tag := some tag, status := .ready, sentBefore := false }

/-- FENCE on a source context (R57). -/
def fenceSource (i : WinIdx) (c : SourceCtx) (tag : Tag) (s : State) : State × Result :=
  if !c.state.journals then (s, .refusedState)
  else if c.fence.isSome then (s, .refusedBusy)
  else if !s.reserveOk i 1 then (s, .refusedNoSpace)
  else
    (s.modSource i fun c => { c.push [markRecord (s.streamOf i) c.nextSeq tag] with fence := some tag }, .done)

end Sys2Proof.Machine
end

