-- ==== Sys2Proof/Machine/Sink.lean ====
section
/-! DEFINITION. The sink side of a stream (Sink Side of a Stream), promotion (Promotion and Role Reversal) and the apply
engine (R131 to R135). -/

namespace Sys2Proof.Machine

/-! ### The receive window and its head -/

/-- The held record of a sequence number, if there is one. -/
def SinkCtx.heldAt (c : SinkCtx) (q : Seq) : Option Held :=
  c.held.find? (·.body.seq == q)

/-- A record joins the window, which stays in sequence order from expected seq (R125). -/
def insertHeld (e : Seq) (h : Held) : List Held → List Held
  | [] => [h]
  | x :: rest =>
      if (h.body.seq - e).toNat < (x.body.seq - e).toNat then h :: x :: rest else x :: insertHeld e h rest

/-- The waiting records removed; one under an operation stays (R125). -/
def keepUnderOp (hs : List Held) : List Held :=
  hs.filter (·.underOp)

/-- The first and the last byte of a run lie in one 64-byte-aligned block (R18, R126). -/
def oneBlock (offset len : Nat) : Bool :=
  offset / 64 == (offset + len - 1) / 64

/-- Each member's offset equals the previous member's offset plus its length (R130). -/
def contiguous : List RecBody → Bool
  | a :: b :: rest => b.offset.toNat == a.offset.toNat + a.data.length && contiguous (b :: rest)
  | _ => true

/-- A completed group passes the offset and block tests (R130). -/
def groupOk (rs : List RecBody) : Bool :=
  match rs with
  | [] => false
  | r :: _ => contiguous rs && oneBlock r.offset.toNat (rs.map (·.data.length)).sum

/-- What stands at the head of a receive window (R130). -/
inductive Head where
  /-- No applicable head: nothing held at expected seq, a record under an operation, or a group not yet complete. -/
  | none
  /-- A WHOLE WRITE or SEED, or a complete group: it needs a memory operation. -/
  | memory (recs : List RecBody)
  /-- A MARK or SEED_END: it needs none (R134). -/
  | marker (r : RecBody)
  /-- The record heads a set that will never form a group. -/
  | unusable
  deriving DecidableEq, Repr

/-- The members after a FIRST, followed through the held records without a gap; `more` members may still come.
DEDUCED (notes/assumptions/8.md): a missing record leaves the group open, whatever is held beyond the gap. -/
def SinkCtx.groupFrom (c : SinkCtx) (members : List RecBody) (next : Seq) : Nat → Head
  | 0 => .unusable
  | more + 1 =>
      match c.heldAt next with
      | Option.none => .none
      | some h =>
          match h.body.pos with
          | .middle => c.groupFrom (members ++ [h.body]) (next + 1#16) more
          | .last => if groupOk (members ++ [h.body]) then .memory (members ++ [h.body]) else .unusable
          | .whole | .first => .unusable

/-- The head of a sink context's receive window (R130). -/
def SinkCtx.head (c : SinkCtx) : Head :=
  if c.state = .seeding ∨ c.state = .live then
    match c.heldAt c.expected with
    | Option.none => .none
    | some h =>
        if h.underOp then .none
        else
          match h.body.kind, h.body.pos with
          | .mark, _ => .marker h.body
          | .seedEnd, _ => .marker h.body
          | _, .whole => .memory [h.body]
          | _, .first => c.groupFrom [h.body] (c.expected + 1#16) 3
          | _, .middle => .unusable
          | _, .last => .unusable
  else .none

/-- The head's records, where it needs a memory operation (R131). -/
def SinkCtx.memoryHead (c : SinkCtx) : Option (List RecBody) :=
  match c.head with
  | .memory rs => some rs
  | _ => Option.none

/-! ### Acknowledgement -/

/-- Flagging ACK(e−1) (R136): it replaces what the flag holds, except an unsent NAK(e). -/
def flagAck (id : StreamId) (c : SinkCtx) (s : State) : State :=
  match s.ackFlag id with
  | some f =>
      if f.isNak ∧ f.seq = c.expected then s
      else flag id { isNak := false, seq := c.expected - 1#16, epoch := c.epoch } s
  | none => flag id { isNak := false, seq := c.expected - 1#16, epoch := c.epoch } s

/-- Flagging NAK(e) (R127). -/
def flagNak (id : StreamId) (c : SinkCtx) (s : State) : State :=
  flag id { isNak := true, seq := c.expected, epoch := c.epoch } s

/-- An unsent ACK is brought up to the new e−1 at a completion; an unsent NAK is left (R136). -/
def refreshAck (id : StreamId) (c : SinkCtx) (s : State) : State :=
  match s.ackFlag id with
  | some f => if f.isNak then s else setAckFlag id (some { f with seq := c.expected - 1#16 }) s
  | none => s

/-- The ack count rises by `n`, stopping at ACK_EVERY, and the ack timer starts when it rises from 0 (R133, R136). -/
def SinkCtx.countAck (c : SinkCtx) (n : Nat) (set : Settings) : SinkCtx :=
  { c with
    ackCount := min (c.ackCount + n) set.ackEvery
    ackTimer := if c.ackCount = 0 then some set.ackDelay else c.ackTimer }

/-- NAK outstanding is set and NAK(e) flagged, unless it is already set (R127). -/
def nakOnce (i : WinIdx) (s : State) : State :=
  match s.sink? i with
  | some c =>
      if c.nakOutstanding then s
      else flagNak (s.streamOf i) c (s.modSink i fun c => { c with nakOutstanding := true })
  | none => s

/-! ### Applying -/

/-- Applying a MARK or SEED_END at the head, without a memory operation (R134). -/
def applyMarker (i : WinIdx) (r : RecBody) (s : State) : State :=
  let s := s.modSink i fun c =>
    SinkCtx.countAck
      { c with held := c.held.filter (·.body.seq ≠ r.seq), expected := c.expected + 1#16,
               applied := c.applied + 1#32, nakOutstanding := false } 1 s.settings
  let s := match s.sink? i with
    | some c => flagAck (s.streamOf i) c s
    | none => s
  match s.sink? i with
  | some c =>
      if r.kind = .seedEnd ∧ c.state = .seeding then
        raise .streamLive (noticeWin i (s.modSink i fun c => { c with state := .live }))
      else s
  | none => s

/-- The record at expected seq is discarded as stale, NAK outstanding is cleared, and NAK(e) is flagged (R130). -/
def discardUnusable (i : WinIdx) (s : State) : State :=
  nakOnce i (countStale (s.modSink i fun c =>
    { c with held := c.held.filter (·.body.seq ≠ c.expected), nakOutstanding := false }))

/-- The apply test (R130, R134): markers at the head are applied at once, one after another; an unusable record there is
discarded. At most `fuel` of them, which 5 covers, the window holding 4 records. -/
def applyTest (i : WinIdx) : Nat → State → State
  | 0, s => s
  | fuel + 1, s =>
      match s.sink? i with
      | some c =>
          match c.head with
          | .marker r => applyTest i fuel (applyMarker i r s)
          | .unusable => discardUnusable i s
          | _ => s
      | none => s

/-- The apply engine in IDLE, serving no stream. -/
def ApplyEngine.drop (a : ApplyEngine) : ApplyEngine :=
  { a with phase := .idle, served := none }

/-- A request in PORT_WAIT for window `i` is withdrawn (R135). -/
def withdrawApply (i : WinIdx) (s : State) : State :=
  if s.apply.phase = .portWait ∧ (s.apply.served.any fun v => v.win == i) then { s with apply := s.apply.drop } else s

/-- The head that a stream identifier's sink context would have the engine apply (R131). -/
def State.applyHead (s : State) (id : StreamId) : Option (WinIdx × Epoch × List RecBody) :=
  match s.lookup id with
  | some i =>
      match s.sink? i with
      | some c => c.memoryHead.map fun rs => (i, c.epoch, rs)
      | none => none
  | none => none

/-- The IDLE apply engine chooses the next stream with an applicable head that needs a memory operation, in rotation of
identifiers, and goes to PORT_WAIT (R131). -/
def applyChoose (s : State) : State :=
  if s.apply.phase = .idle then
    match nextServed s.apply.last fun id => (s.applyHead id).isSome with
    | some id =>
        match s.applyHead id with
        | some (i, epoch, rs) =>
            { s with apply := { phase := .portWait, served := some { win := i, id := id, epoch := epoch, recs := rs },
                                last := id } }
        | none => s
    | none => s
  else s

/-- The context still exists, is not CLOSED, holds the epoch of the choice and the head's records (R133). -/
def SinkCtx.stillHolds (c : SinkCtx) (v : Served) : Bool :=
  c.state != .closed && c.epoch == v.epoch && v.recs.all fun r => c.held.any fun h => h.underOp && h.body == r

/-- An apply is completed (R133). -/
def completeApply (v : Served) (s : State) : State :=
  let n := v.recs.length
  let before := s.sink? v.win
  let s := s.modSink v.win fun c =>
    let c := { c with
      held := c.held.filter fun h => v.recs.all fun r => h.body.seq ≠ r.seq
      expected := c.expected + BitVec.ofNat 16 n
      applied := c.applied + BitVec.ofNat 32 n
      nakOutstanding := false }
    if c.state = .seeding ∨ c.state = .live then c.countAck n s.settings else c
  match before, s.sink? v.win with
  | some b, some c =>
      if c.state = .seeding ∨ c.state = .live then
        let s := refreshAck (s.streamOf v.win) c s
        let s := if b.ackCount < s.settings.ackEvery ∧ c.ackCount = s.settings.ackEvery then
            flagAck (s.streamOf v.win) c s
          else s
        applyTest v.win 5 s
      else s
  | _, _ => s

/-! ### Clearing and closing -/

/-- Ack and NAK state cleared (R124, R138, R139, R140). -/
def SinkCtx.clearAck (c : SinkCtx) : SinkCtx :=
  { c with ackCount := 0, ackTimer := none, nakOutstanding := false }

/-- A sink context closes: its window is emptied of every record, its ack and NAK state cleared, its acknowledgement
flag emptied, and the engine's request for it withdrawn (R140, R141, R142). -/
def closeSinkCtx (i : WinIdx) (reason : CloseReason) (s : State) : State :=
  let s := s.modSink i fun c => { c.clearAck with state := .closed, closeReason := reason, held := [] }
  withdrawApply i (setAckFlag (s.streamOf i) none s)

/-- An apply closes its context on ERROR (R142). -/
def applyErrorClose (i : WinIdx) (s : State) : State :=
  match s.sink? i with
  | some c =>
      let s := raise .streamClosed (noticeWin i (closeSinkCtx i .applyError s))
      if c.state = .suspended then s else place (s.streamOf i) c.epoch (.close .applyError) s
  | none => s

/-- What a sink context does when the link has left UP (R138). -/
def sinkLinkLeft (s : State) (i : WinIdx) : State :=
  match s.sink? i with
  | some c =>
      match c.state with
      | .seeding =>
          withdrawApply i (s.modSink i fun c =>
            { c.clearAck with state := .suspended, prior := .seeding, held := keepUnderOp c.held })
      | .live =>
          withdrawApply i (s.modSink i fun c =>
            { c.clearAck with state := .suspended, prior := .live, held := keepUnderOp c.held })
      | _ => s
  | none => s

/-! ### Frames handed to the sink stream controller -/

/-- The state a SUSPENDED context returns to. -/
def Prior.sinkState : Prior → SinkState
  | .seeding => .seeding
  | .live => .live

/-- A new pairing begins (R124). -/
def newPairing (i : WinIdx) (epoch : Epoch) (s : State) : State :=
  let s := s.modSink i fun c =>
    { c.clearAck with state := .seeding, epoch := epoch, expected := 0#16, held := [], closeReason := .none }
  let s := withdrawApply i (setAckFlag (s.streamOf i) none s)
  place (s.streamOf i) epoch .openAccept s

/-- An OPEN at the sink stream controller (R123, R124). -/
def openAtSink (id : StreamId) (epoch : Epoch) (length : Word) (s : State) : State :=
  match s.lookup id with
  | none => place id epoch (.openRefuse .noWindow) s
  | some i =>
      match s.sink? i with
      | none => place id epoch (.openRefuse .notSink) s
      | some c =>
          if length ≠ (s.entry i).length then place id epoch (.openRefuse .lengthMismatch) s
          else if epoch = c.epoch ∧ c.state = .seeding then place id epoch .openAccept s
          else newPairing i epoch s

/-- The PROMOTION record of the entry an identifier finds, if that entry is a SOURCE window and the record names the
epoch (R148). -/
def State.promotedFor (s : State) (id : StreamId) (epoch : Epoch) : Option Promotion :=
  match s.lookup id with
  | some i =>
      match s.source? i, (s.entry i).promotion with
      | some _, some p => if p.epoch = epoch then some p else none
      | _, _ => none
  | none => none

/-- The PROMOTED frame of a PROMOTION record (R146, R148). -/
def placePromoted (id : StreamId) (p : Promotion) (s : State) : State :=
  place id p.epoch (.promoted p.lastApplied (BitVec.ofNat 8 p.discarded)) s

/-- The applied point: expected seq advanced past the records under an operation (R139). An apply granted before a new pairing
does not count, its records having left the window (R124), even where the pairing carries the same epoch number and
"granted in its present epoch" could be read to take it in (DESIGN CHOICE, notes/assumptions/26.md). -/
def SinkCtx.appliedPoint (c : SinkCtx) : Seq :=
  c.expected + BitVec.ofNat 16 (keepUnderOp c.held).length

/-- A CONTINUE verdict (R139). -/
def giveContinue (i : WinIdx) (c : SinkCtx) (s : State) : State :=
  let s := place (s.streamOf i) c.epoch (.reopenReply .continues c.appliedPoint) s
  let s := s.modSink i fun c =>
    { c.clearAck with
      held := keepUnderOp c.held
      state := if c.state = .suspended then c.prior.sinkState else c.state }
  withdrawApply i (setAckFlag (s.streamOf i) none s)

/-- A REOPEN at the sink stream controller (R139, R148). -/
def reopenAtSink (id : StreamId) (epoch : Epoch) (o n : Seq) (s : State) : State :=
  match s.promotedFor id epoch with
  | some p => placePromoted id p s
  | none =>
      match (s.lookup id).bind fun i => (s.sink? i).map fun c => (i, c) with
      | some (i, c) =>
          if c.state ≠ .closed ∧ c.epoch = epoch ∧ seqLe o c.appliedPoint ∧ seqLe c.appliedPoint n then
            giveContinue i c s
          else place id epoch (.reopenReply .stale 0#16) s
      | none => place id epoch (.reopenReply .stale 0#16) s

/-- A RECORD is misplaced (R126). -/
def misplaced (len : Word) (r : RecBody) : Bool :=
  match r.kind with
  | .write | .seed =>
      len.toNat < r.offset.toNat + r.data.length || !oneBlock r.offset.toNat r.data.length
  | .mark | .seedEnd => false

/-- Some sequence number from e to q−1 is not held (R127); q lies from e to e+3. -/
def SinkCtx.gapBefore (c : SinkCtx) (q : Seq) : Bool :=
  (List.range (q - c.expected).toNat).any fun k => (c.heldAt (c.expected + BitVec.ofNat 16 k)).isNone

/-- A RECORD is held, then the NAK test and the apply test (R126, R127, R130). -/
def holdRecord (i : WinIdx) (c : SinkCtx) (r : RecBody) (s : State) : State :=
  let s := s.modSink i fun c => { c with held := insertHeld c.expected { body := r, underOp := false } c.held }
  let s := if c.gapBefore r.seq then nakOnce i s else s
  applyTest i 5 s

/-- Placement and admission of a RECORD by a context in SEEDING or LIVE (R126). A number that falls under the first and the
last row of R126's table is taken by the first (DESIGN CHOICE, notes/assumptions/17.md; unsafe). -/
def admission (i : WinIdx) (c : SinkCtx) (r : RecBody) (s : State) : State :=
  if misplaced (s.entry i).length r then countStale s
  else if (r.seq - c.expected).toNat < Config.receiveWindow then
    if (c.heldAt r.seq).isSome then s.modSink i fun c => { c with duplicates := c.duplicates + 1#32 }
    else holdRecord i c r s
  else if seqPrecedes r.seq c.expected then
    flagAck (s.streamOf i) c (s.modSink i fun c => { c with duplicates := c.duplicates + 1#32 })
  else nakOnce i (s.modSink i fun c => { c with beyond := c.beyond + 1#32 })

/-- A RECORD for a sink context that is not CLOSED (R122, R128). -/
def recordAtCtx (i : WinIdx) (c : SinkCtx) (epoch : Epoch) (r : RecBody) (s : State) : State :=
  if c.epoch ≠ epoch then countStale s
  else
    let s := if c.state = .suspended then s.modSink i fun c => { c with state := c.prior.sinkState } else s
    match s.sink? i with
    | some c => admission i c r s
    | none => s

/-- A RECORD at the sink stream controller (R122, R129, R148). -/
def recordAtSink (id : StreamId) (epoch : Epoch) (r : RecBody) (s : State) : State :=
  match s.promotedFor id epoch with
  | some p => placePromoted id p s
  | none =>
      match (s.lookup id).bind fun i => (s.sink? i).map fun c => (i, c) with
      | some (i, c) =>
          if c.state = .closed then place id epoch (.close .notOpen) s else recordAtCtx i c epoch r s
      | none => place id epoch (.close .notOpen) s

/-- A CLOSE at the sink stream controller (R140). -/
def closeAtSink (id : StreamId) (epoch : Epoch) (s : State) : State :=
  match (s.lookup id).bind fun i => (s.sink? i).map fun c => (i, c) with
  | some (i, c) =>
      if c.state ≠ .closed ∧ c.epoch = epoch then
        place id epoch .closeAck (raise .streamClosed (noticeWin i (closeSinkCtx i .peer s)))
      else place id epoch .closeAck s
  | none => place id epoch .closeAck s

/-! ### Expiry of an ack timer, and operations on a sink context -/

/-- Expiry of a sink's ack timer (R136): the ACK is flagged and the timer stays stopped. -/
def ackExpired (i : WinIdx) (c : SinkCtx) (s : State) : State :=
  let s := s.modSink i fun c => { c with ackTimer := none }
  if c.state = .seeding ∨ c.state = .live then flagAck (s.streamOf i) c s else s

/-- CLOSE on a sink context (R141). -/
def closeSink (i : WinIdx) (c : SinkCtx) (s : State) : State × Result :=
  if c.state = .closed then (s, .refusedState)
  else (place (s.streamOf i) c.epoch (.close .fromLocal) (closeSinkCtx i .localClose s), .done)

/-- The copy is consistent (section 1.2, R36). -/
def SinkCtx.consistent (c : SinkCtx) : Bool :=
  match c.state with
  | .live => true
  | .suspended => c.prior == .live
  | .closed | .seeding => false

/-- An apply is under operation for window `i` (R145): any that was chosen for the window and whose write the memory has not
answered. Whether one granted before a new pairing, or for an earlier context of the window, counts as an apply of the
context the spec does not say; it does count (DESIGN CHOICE, notes/assumptions/24.md). -/
def State.applying (s : State) (i : WinIdx) : Bool :=
  s.apply.phase == .writing && s.apply.served.any fun v => v.win == i

/-- The promotion of a sink window (R30, R146). -/
def promote (i : WinIdx) (c : SinkCtx) (s : State) : State :=
  let p : Promotion :=
    { epoch := c.epoch, lastApplied := c.expected - 1#16, discarded := (c.held.filter (!·.underOp)).length }
  let s := withdrawApply i (setAckFlag (s.streamOf i) none s)
  let s := s.setEntry i { s.entry i with role := .source (newSource c.epoch), promotion := some p }
  noticeWin i (placePromoted (s.streamOf i) p s)

/-- PROMOTE on a sink context (R145). -/
def promoteSink (i : WinIdx) (c : SinkCtx) (s : State) : State × Result :=
  if !c.consistent then (s, .refusedState)
  else if s.applying i then (s, .refusedBusy)
  else (promote i c s, .done)

end Sys2Proof.Machine
end

