-- ==== Sys2Proof/Machine/Seeding.lean ====
section
/-! DEFINITION. The seed engine: taking a stream, reserving and reading its chunks, filling their records and placing
SEED_END (Seeding). -/

namespace Sys2Proof.Machine

/-- The slots a chunk asks for (R46, R67): 5 for the last chunk of a window whose QUOTA is 5 or more, else 4. -/
def chunkSlots (e : Entry) (c : SourceCtx) : Nat :=
  if c.cursor + 64 = e.length.toNat ∧ 5 ≤ e.quota then 5 else 4

/-- The chunk's reservation test (R67): PORT_WAIT with the slots, or SLOT_WAIT. -/
def tryChunk (i : WinIdx) (s : State) : State :=
  match s.source? i with
  | some c =>
      let k := chunkSlots (s.entry i) c
      if s.reserveOk i k then
        { s with seed := { s.seed with phase := .portWait, resv := some { win := i, slots := k } } }
      else { s with seed := { s.seed with phase := .slotWait } }
  | none => { s with seed := s.seed.drop }

/-- Beginning the next chunk of the active stream (R67). In an event that released slots while a write is held, the
engine's first test is made at its offer, after the held write's (R47; DEDUCED, notes/assumptions/7.md). -/
def beginChunk (i : WinIdx) (s : State) : State :=
  if s.heldOfferDue then
    { s with seed := { s.seed with phase := .slotWait }, offers := { s.offers with seed := true } }
  else tryChunk i s

/-- The IDLE engine takes the stream at the head of the seed queue and begins its chunk (R66). -/
def seedTake (s : State) : State :=
  match s.seed.phase, s.seed.queue with
  | .idle, i :: rest =>
      beginChunk i { s with seed := { s.seed with active := some i, chunkCount := 0, queue := rest } }
  | _, _ => s

/-- A SEED record of a chunk at its creation (R42, R68). -/
def seedRecord (id : StreamId) (seq : Seq) (pos : RecPos) (offset : Nat) : Record :=
  { stream := id, seq := seq, kind := .seed, pos := pos, offset := BitVec.ofNat 32 offset, length := 16, data := none,
    tag := none, status := .filling, sentBefore := false }

/-- The four records of a chunk at offset `o`, numbered from `q` (R68). -/
def chunkRecords (id : StreamId) (q : Seq) (o : Nat) : List Record :=
  [seedRecord id q .first o, seedRecord id (q + 1#16) .middle (o + 16), seedRecord id (q + 2#16) .middle (o + 32),
    seedRecord id (q + 3#16) .last (o + 48)]

/-- The SEED_END record (R42, R70). -/
def seedEndRecord (id : StreamId) (seq : Seq) (length : Word) : Record :=
  { stream := id, seq := seq, kind := .seedEnd, pos := .whole, offset := length, length := 0, data := some [],
    tag := none, status := .ready, sentBefore := false }

/-- SEED_END joins the tail of the queue, and the engine drops the stream (R70); a fifth slot held for it becomes the
record. -/
def putSeedEnd (i : WinIdx) (s : State) : State :=
  let s := s.modSource i fun c => c.push [seedEndRecord (s.streamOf i) c.nextSeq (s.entry i).length]
  { s with seed := { s.seed.drop with flight := none } }

/-- SEED_END where its slot must still be asked for (R46, R70): placed at once, or END_WAIT. -/
def trySeedEnd (i : WinIdx) (s : State) : State :=
  if s.reserveOk i 1 then putSeedEnd i s
  else { s with seed := { s.seed with phase := .endWait, active := some i, flight := none, resv := none } }

/-- The bytes of the k-th record of a chunk (R69). -/
def chunkPiece (data : BitVec 512) (k : Nat) : List Byte :=
  ((bytesOf 64 data).drop (16 * k)).take 16

/-- The records of the read in flight take their bytes and become READY (R43, R69). -/
def fillRecords (first : Seq) (data : BitVec 512) (q : List Record) : List Record :=
  q.map fun r =>
    if r.status = .filling ∧ (r.seq - first).toNat < 4 then
      { r with status := .ready, data := some (chunkPiece data (r.seq - first).toNat) }
    else r

/-- After a chunk's data has filled its records, the active stream's walk goes on (R71): the stream yields the engine at
the end of its quantum while others wait, or its next chunk begins. -/
def nextChunk (i : WinIdx) (s : State) : State :=
  if Config.seedQuantum ≤ s.seed.chunkCount ∧ s.seed.queue ≠ [] then
    joinSeedQueue i { s with seed := s.seed.drop }
  else beginChunk i s

/-- The data of a read whose records stand in the journal (R69). -/
def chunkFilled (f : Flight) (data : BitVec 512) (s : State) : State :=
  let s := s.modSource f.win fun c => { c with queue := fillRecords f.first data c.queue }
  match s.source? f.win with
  | none => { s with seed := { s.seed.drop with flight := none } }
  | some c =>
      if c.cursor = (s.entry f.win).length.toNat then
        if f.fifth then putSeedEnd f.win s else trySeedEnd f.win s
      else if s.seed.active = some f.win then
        nextChunk f.win { s with seed := { s.seed with flight := none } }
      else { s with seed := { s.seed.drop with flight := none } }

/-- The memory's answer to the chunk read in flight (R69, R76, R77). A read whose records a CONTINUE has freed, and nothing
discarded, counts as not orphaned: R69 and R77 speak of records that stand, R76 of discarded ones
(DESIGN CHOICE, notes/assumptions/21.md). -/
def seedAnswered (f : Flight) (ok : Bool) (data : BitVec 512) (s : State) : State :=
  if ok then
    if f.orphan then { s with seed := { s.seed.drop with flight := none } } else chunkFilled f data s
  else
    let s := raise .memoryError s
    let s := if f.orphan then s else faultStream f.win .memoryError s
    { s with seed := { s.seed.drop with flight := none } }

/-- An offer of slots to the waiting engine (R46, R47, R67, R70). -/
def offerSeed (s : State) : State :=
  let s := { s with offers := { s.offers with seed := false } }
  match s.seed.active with
  | some i => if s.seed.phase = .endWait then trySeedEnd i s else tryChunk i s
  | none => s

end Sys2Proof.Machine
end

