-- ==== Sys2Proof/Machine/AccessUnit.lean ====
section
/-! DEFINITION. The access unit: acceptance, the reservation and the held write, the grant and its journaling, and the
memory's answer (The Memory Path; R49, R50). -/

namespace Sys2Proof.Machine

/-- COMPLETE: the response is given to the master, and the unit returns to IDLE (R3). -/
def respond (ok : Bool) (data : List Byte) (s : State) : State :=
  { s with bus := { s.bus with responses := { ok := ok, data := data } :: s.bus.responses }
           acc := { phase := .idle, resv := none, holdTimer := none } }

/-- REQUESTING, with a reservation or none; the hold timer is stopped (R7, R9, R13). -/
def requestPort (a : Access) (r : Option Resv) (s : State) : State :=
  { s with acc := { phase := .requesting a, resv := r, holdTimer := none } }

/-- WAIT_SLOTS, with the hold timer started (R13). -/
def holdWrite (a : Access) (i : WinIdx) (s : State) : State :=
  { s with acc := { phase := .waitSlots a i, resv := none, holdTimer := some s.settings.holdLimit } }

/-- The offset of an access within a window (section 1.2). -/
def State.offsetIn (s : State) (i : WinIdx) (a : Access) : Nat :=
  a.addr.toNat - (s.entry i).base.toNat

/-- The reservation test of a write against the stream of window `i`, with the outcomes of R9 (R13, R14). -/
def reserveWrite (a : Access) (i : WinIdx) (c : SourceCtx) (s : State) : State :=
  if s.reserveOk i a.slots then requestPort a (some { win := i, slots := a.slots }) s
  else if c.needsRecords (s.offsetIn i a) then
    match (s.entry i).policy with
    | .hold => holdWrite a i s
    | .spill => requestPort a none (reseed i s)
  else requestPort a none s

/-- A refused write (R5). -/
def refuseWrite (s : State) : State :=
  raise .writeRefused (respond false [] s)

/-- A refused read (R6). -/
def refuseRead (s : State) : State :=
  raise .readRefused (respond false [] s)

/-- The read guard refuses reads of the entry (R6). -/
def Entry.guardsRead (e : Entry) (c : SinkCtx) : Bool :=
  e.readGuard && !c.consistent

/-- ACCEPTED: form check, decode, refusal or reservation (R2, R4 to R9). -/
def accept (a : Access) (s : State) : State :=
  if !a.formOk then respond false [] s
  else
    match s.decode a.addr with
    | none => requestPort a none s
    | some i =>
        match (s.entry i).role with
        | .off => requestPort a none s
        | .sink c =>
            if a.isWrite then refuseWrite s
            else if (s.entry i).guardsRead c then refuseRead s
            else requestPort a none s
        | .source c =>
            if a.isWrite && c.state.journals then reserveWrite a i c s else requestPort a none s

/-- The IDLE unit takes the access the master presents (R1). -/
def takePresented (s : State) : State :=
  match s.acc.phase, s.bus.presented with
  | .idle, some a => accept a { s with bus := { s.bus with presented := none } }
  | _, _ => s

/-! ### The grant -/

/-- The position of the j-th of k records of one write (R42). -/
def pieceAt (j k : Nat) : RecPos :=
  if k = 1 then .whole else if j = 0 then .first else if j + 1 = k then .last else .middle

/-- The WRITE records of a write of `data` at `offset`, numbered from `q`: consecutive pieces of 16 bytes (R49). -/
def writeRecords (id : StreamId) (q : Seq) (offset : Nat) (data : List Byte) : List Record :=
  let k := (data.length + 15) / 16
  (List.range k).map fun j =>
    let piece := (data.drop (16 * j)).take 16
    { stream := id, seq := q + BitVec.ofNat 16 j, kind := .write, pos := pieceAt j k,
      offset := BitVec.ofNat 32 (offset + 16 * j), length := piece.length, data := some piece, tag := none,
      status := .ready, sentBefore := false }

/-- The bytes of `older` from `lo`, with those of `newer` from `at'` laid over them, over `len` bytes from `start`. -/
def overlay (older : List Byte) (lo : Nat) (newer : List Byte) (at' : Nat) (start len : Nat) : List Byte :=
  (List.range len).map fun k =>
    let p := start + k
    if at' ≤ p ∧ p < at' + newer.length then newer.getD (p - at') 0#8 else older.getD (p - lo) 0#8

/-- The tail record with a single write merged into it, where the merge test of R50 passes. -/
def mergeInto (r : Record) (offset : Nat) (data : List Byte) : Option Record :=
  let lo := min r.offset.toNat offset
  let hi := max (r.offset.toNat + r.length) (offset + data.length)
  match r.data with
  | some older =>
      if r.kind = .write ∧ r.pos = .whole ∧ r.status = .ready ∧ r.sentBefore = false
          ∧ offset ≤ r.offset.toNat + r.length ∧ r.offset.toNat ≤ offset + data.length
          ∧ hi - lo ≤ 16 ∧ oneBlock lo (hi - lo) then
        some { r with offset := BitVec.ofNat 32 lo, length := hi - lo,
                      data := some (overlay older r.offset.toNat data offset lo (hi - lo)) }
      else none
  | none => none

/-- The access unit's reservation is given back to the journal, a release (R10, R45). -/
def returnResv (s : State) : State :=
  match s.acc.resv with
  | some _ => release { s with acc := { s.acc with resv := none } }
  | none => s

/-- A single write's merge into the tail record of its stream's queue, where it passes the test (R50). -/
def SourceCtx.mergeTail (c : SourceCtx) (a : Access) (offset : Nat) : Option SourceCtx :=
  match a.shape, c.queue.getLast? with
  | .single _, some r =>
      (mergeInto r offset a.bytes).map fun r' =>
        { c with queue := c.queue.dropLast ++ [r'], merges := c.merges + 1#32 }
  | _, _ => none

/-- Journaling a write at its grant (R10, R49, R50): a merge returns the reservation, else the reservation becomes the
records. -/
def journalWrite (a : Access) (i : WinIdx) (c : SourceCtx) (s : State) : State :=
  let offset := s.offsetIn i a
  match c.mergeTail a offset with
  | some c' => returnResv (s.setRole i (.source c'))
  | none =>
      let s := s.setRole i (.source (c.push (writeRecords (s.streamOf i) c.nextSeq offset a.bytes)))
      { s with acc := { s.acc with resv := none } }

/-- The memory operation of an access, as presented (R7, R18). -/
def accessOp (a : Access) : MemOp :=
  { requester := .access, addr := a.addr, isWrite := a.isWrite, len := a.size, bytes := a.bytes }

/-- GRANTED: the memory operation begins (R10, R18). -/
def beginAccess (a : Access) (j : Option Journaled) (s : State) : State :=
  beginOp (accessOp a) { s with acc := { s.acc with phase := .granted a j } }

/-- The grant of a write to a SOURCE window (R10). -/
def grantWrite (a : Access) (i : WinIdx) (c : SourceCtx) (s : State) : State :=
  if c.needsRecords (s.offsetIn i a) && slotsAgainst s.acc.resv i == a.slots then
    beginAccess a (some { win := i, epoch := c.epoch }) (journalWrite a i c s)
  else beginAccess a none (returnResv s)

/-- The grant to ACCESS (R4, R5, R6, R10): the access is decoded again against the table as it stands. A refused access
leaves the grant unused, so the port is free again at once. -/
def grantAccess (s : State) : State :=
  match s.acc.phase with
  | .requesting a =>
      let s := rotate .access s
      match s.decode a.addr with
      | none => beginAccess a none (returnResv s)
      | some i =>
          match (s.entry i).role with
          | .off => beginAccess a none (returnResv s)
          | .sink c =>
              if a.isWrite then refuseWrite (returnResv s)
              else if (s.entry i).guardsRead c then refuseRead (returnResv s)
              else beginAccess a none (returnResv s)
          | .source c =>
              if a.isWrite then grantWrite a i c s else beginAccess a none (returnResv s)
  | _ => s

/-- A cursor has advanced: a write in REQUESTING is decoded again, and if it now needs records and holds no reservation
its request is withdrawn and it takes the reservation test again (R11). -/
def cursorAdvanced (s : State) : State :=
  match s.acc.phase with
  | .requesting a =>
      if a.isWrite then
        match s.decode a.addr with
        | some i =>
            match s.source? i with
            | some c =>
                if c.needsRecords (s.offsetIn i a) && s.acc.resv.isNone then reserveWrite a i c s else s
            | none => s
        | none => s
      else s
  | _ => s

/-- The grant of a chunk read (R68): four FILLING records, the cursor, and the read at BASE plus the cursor. -/
def grantSeed (s : State) : State :=
  match s.seed.phase, s.seed.active, s.seed.resv with
  | .portWait, some i, some r =>
      match s.source? i with
      | some c =>
          let e := s.entry i
          let s := rotate .seed s
          let s := s.setRole i (.source { c.push (chunkRecords e.stream c.nextSeq c.cursor) with cursor := c.cursor + 64 })
          let fifth := r.slots == 5
          let s := { s with seed := { s.seed with
            phase := .reading
            chunkCount := min (s.seed.chunkCount + 1) Config.seedQuantum
            resv := if fifth then some { win := i, slots := 1 } else none
            flight := some { win := i, first := c.nextSeq, fifth := fifth, orphan := false } } }
          cursorAdvanced (beginOp { requester := .seed, addr := e.base + BitVec.ofNat 32 c.cursor, isWrite := false,
                                    len := 64, bytes := [] } s)
      | none => { s with seed := s.seed.drop }
  | _, _, _ => { s with seed := s.seed.drop }

/-- The head's records become under an operation (R132). -/
def markUnderOp (rs : List RecBody) (hs : List Held) : List Held :=
  hs.map fun h => if rs.any (·.seq == h.body.seq) then { h with underOp := true } else h

/-- The grant to APPLY (R132): the head's bytes are written at BASE, as the entry stands, plus the first offset. -/
def grantApply (s : State) : State :=
  match s.apply.phase, s.apply.served with
  | .portWait, some v =>
      let s := rotate .apply s
      let s := s.modSink v.win fun c => { c with held := markUnderOp v.recs c.held }
      let bytes := v.recs.flatMap (·.data)
      let offset := (v.recs.head?.map (·.offset)).getD 0#32
      beginOp { requester := .apply, addr := (s.entry v.win).base + offset, isWrite := true, len := bytes.length,
                bytes := bytes } { s with apply := { s.apply with phase := .writing } }
  | _, _ => { s with apply := s.apply.drop }

/-- The arbiter's grant to a requester (R17). -/
def grant (r : Requester) (s : State) : State :=
  match r with
  | .access => grantAccess s
  | .seed => grantSeed s
  | .apply => grantApply s

/-! ### The held write -/

/-- An offer of slots to the held write (R15). -/
def offerHeld (s : State) : State :=
  let s := { s with offers := { s.offers with held := false } }
  match s.acc.phase with
  | .waitSlots a i =>
      if s.reserveOk i a.slots then requestPort a (some { win := i, slots := a.slots }) s else s
  | _ => s

/-- Expiry of the hold timer (R16): an overflow of the write's stream, whose discard takes the write to REQUESTING. -/
def holdExpired (s : State) : State :=
  match s.acc.phase with
  | .waitSlots a i => requestPort a none (reseed i s)
  | _ => s

/-! ### The memory's answers -/

/-- A write that was journaled at its grant ends in ERROR (R19): its stream, still in that epoch and in a state that
journals, goes to FAULT. A discard since the grant has taken the mark away. -/
def journaledError (j : Journaled) (s : State) : State :=
  match s.source? j.win with
  | some c => if c.epoch = j.epoch ∧ c.state.journals then faultStream j.win .memoryError s else s
  | none => s

/-- The memory's answer to the access unit's operation in progress (R3, R19). -/
def answerAccess (ok : Bool) (data : BitVec 512) (s : State) : State :=
  match s.arb.op, s.acc.phase with
  | some op, .granted a j =>
      if op.requester = .access then
        let s := freePort s
        if ok then respond true (if a.isWrite then [] else bytesOf a.size data) s
        else
          let s := raise .memoryError s
          let s := match j with
            | some j => journaledError j s
            | none => s
          respond false [] s
      else s
  | _, _ => s

/-- The memory's answer to the chunk read in progress (R69, R76, R77). -/
def answerSeed (ok : Bool) (data : BitVec 512) (s : State) : State :=
  match s.arb.op, s.seed.flight with
  | some op, some f =>
      if op.requester = .seed then seedAnswered f ok data (freePort s) else s
  | _, _ => s

/-- The memory's answer to the apply engine's write in progress (R133, R142). -/
def answerApply (ok : Bool) (s : State) : State :=
  match s.arb.op, s.apply.served with
  | some op, some v =>
      if op.requester = .apply then
        let s := freePort s
        let still := (s.sink? v.win).any fun c => c.stillHolds v
        let s := if ok then s else raise .memoryError s
        let s := { s with apply := s.apply.drop }
        if still then if ok then completeApply v s else applyErrorClose v.win s else s
      else s
  | _, _ => s

end Sys2Proof.Machine
end

