-- ==== Sys2Proof/Machine/LinkCtl.lean ====
section
/-! DEFINITION. The link controller: training and supervision (R81 to R90), receive checking and dispatch (R93, R94), and
the transmit scheduler (R96 to R99). -/

namespace Sys2Proof.Machine

/-! ### Link states -/

/-- Entering TRAINING (R82). -/
def enterTraining (s : State) : State :=
  modLink (fun l => { l with state := .training, heard := false, helloDue := true,
                             helloTimer := some s.settings.helloInterval }) s

/-- The link goes on from DOWN to TRAINING when LINK_ENABLE is on and lane ready is true (R82). -/
def tryTrain (s : State) : State :=
  if s.link.state = .down ∧ s.settings.linkEnable ∧ s.link.laneReady then enterTraining s else s

/-- Every control slot and acknowledgement flag empty (R88). -/
def clearSched (s : State) : State :=
  { s with sched := { s.sched with ctl := Vector.replicate 16 none, ack := Vector.replicate 16 none } }

/-- Leaving UP for DOWN (R88): timers stopped, nothing due, slots and flags emptied, both stream controllers told. The
streams leave the seed queue before the engine looks at it again (R74). -/
def leaveUp (s : State) : State :=
  let s := modLink (fun l => { l with state := .down, silenceTimer := none, keepaliveTimer := none,
                                      keepaliveDue := false }) s
  let s := clearSched s
  let s := allWindows.foldl sourceLinkLeft s
  allWindows.foldl sinkLinkLeft s

/-- Leaving TRAINING for DOWN (R89). -/
def leaveTraining (s : State) : State :=
  modLink (fun l => { l with state := .down, helloTimer := none, helloDue := false }) s

/-- The link goes to DOWN from whatever state it is in (R88, R89). -/
def goDown (s : State) : State :=
  match s.link.state with
  | .up => leaveUp s
  | .training => leaveTraining s
  | .down => s

/-- The link goes to DOWN, and from there at once to TRAINING when enabled and ready (R82, R88, R89). -/
def dropLink (s : State) : State :=
  tryTrain (goDown s)

/-- Entering UP (R85). -/
def enterUp (s : State) : State :=
  let s := modLink (fun l => { l with state := .up, helloTimer := none, helloDue := false,
                                      silenceTimer := some s.settings.silenceLimit,
                                      keepaliveTimer := some s.settings.keepaliveInterval }) s
  allWindows.foldl sourceLinkUp (raise .linkUp s)

/-- A valid frame restarts the silence timer (R86). -/
def restartSilence (s : State) : State :=
  modLink (fun l => { l with silenceTimer := some s.settings.silenceLimit }) s

/-! ### Received frames -/

/-- A HELLO of the wrong version (R83, R95). -/
def wrongVersion (s : State) : State :=
  modCounters (fun c => { c with versionMismatches := c.versionMismatches + 1#32 }) s

/-- A valid HELLO received in TRAINING (R83). -/
def helloInTraining (version : Byte) (heard : Bool) (s : State) : State :=
  if version ≠ Config.linkVersion then wrongVersion s
  else
    let first := !s.link.heard
    let s := modLink (fun l => { l with heard := true }) s
    if heard then enterUp s
    else if first then modLink (fun l => { l with helloDue := true }) s
    else s

/-- A valid HELLO received in UP (R86, R88). -/
def helloInUp (version : Byte) (heard : Bool) (s : State) : State :=
  if version ≠ Config.linkVersion then wrongVersion s
  else if heard then modLink (fun l => { l with heard := true }) (restartSilence s)
  else dropLink s

/-- The lookup found a source context (R94). -/
def State.findsSource (s : State) (id : StreamId) : Option WinIdx :=
  (s.lookup id).bind fun i => (s.source? i).map fun _ => i

/-- The dispatch of a stream frame by its kind and the lookup's result (R94). -/
def dispatch (id : StreamId) (epoch : Epoch) (b : Body) (s : State) : State :=
  match b with
  | .openReq len _ => openAtSink id epoch len s
  | .reopen o n => reopenAtSink id epoch o n s
  | .record r => recordAtSink id epoch r s
  | .close _ =>
      match s.findsSource id with
      | some i => sourceFrame i epoch b s
      | none => closeAtSink id epoch s
  | .openAccept | .openRefuse _ | .reopenReply _ _ | .closeAck | .promoted _ _ | .ack _ | .nak _ =>
      match s.findsSource id with
      | some i => sourceFrame i epoch b s
      | none => countStale s

/-- What a valid frame does once the link is UP. -/
def dispatchFrame (f : Frame) (s : State) : State :=
  match f with
  | .hello _ _ => s
  | .keepalive => s
  | .stream id epoch b => dispatch id epoch b s

/-- A valid frame, by link state and kind (R83, R84, R86, R88, R93). -/
def validFrame (f : Frame) (s : State) : State :=
  let s := modCounters (fun c => { c with framesReceived := c.framesReceived + 1#32 }) s
  match s.link.state, f with
  | .down, _ => s
  | .training, .hello v h => helloInTraining v h s
  | .training, f => dispatchFrame f (enterUp s)
  | .up, .hello v h => helloInUp v h s
  | .up, f => dispatchFrame f (restartSilence s)

/-- A frame discarded by the first stage of the receive checker (R93). -/
def crcErrorFrame (s : State) : State :=
  raise .frameError (modCounters (fun c => { c with crcErrors := c.crcErrors + 1#32 }) s)

/-- A frame discarded by the second stage of the receive checker (R93). -/
def formatErrorFrame (s : State) : State :=
  raise .frameError (modCounters (fun c => { c with formatErrors := c.formatErrors + 1#32 }) s)

/-- While the link is DOWN the receive checker takes no frames (R89). -/
def whenReceiving (f : State → State) (s : State) : State :=
  if s.link.state = .down then s else f s

/-- A frame delivered as bytes, through both stages of the receive checker (R93). -/
def deliverBytes (bs : List Byte) (s : State) : State :=
  match receiveCheck bs with
  | .crcError => crcErrorFrame s
  | .formatError => formatErrorFrame s
  | .valid f => validFrame f s

/-- A frame delivered with its fields; fields the format does not allow are a format error (R93). -/
def deliver (f : Frame) (s : State) : State :=
  if f.formatOk then validFrame f s else formatErrorFrame s

/-! ### The transmit scheduler -/

/-- What the scheduler may choose (R96). -/
inductive Choice where
  | hello
  | keepalive
  | control (id : StreamId)
  | ack (id : StreamId)
  | record (id : StreamId)
  deriving DecidableEq, Repr

/-- The record a source stream may send (R99): SEEDING or LIVE, and the record at the transmit pointer is READY. -/
def SourceCtx.sendable (c : SourceCtx) : Option Record :=
  if (c.state = .seeding ∨ c.state = .live) ∧ c.txPtr ≠ c.nextSeq then
    match c.atPtr with
    | some r => if r.status = .ready then some r else none
    | none => none
  else none

/-- The window, context and record that a stream identifier may send in class 4 (R99). -/
def State.sendableFor (s : State) (id : StreamId) : Option (WinIdx × SourceCtx × Record) :=
  match s.lookup id with
  | some i =>
      match s.source? i with
      | some c => c.sendable.map fun r => (i, c, r)
      | none => none
  | none => none

/-- The next choice of the scheduler, by class and rotation (R96). -/
def State.nextChoice (s : State) : Option Choice :=
  match s.link.state with
  | .down => none
  | .training => if s.link.helloDue then some .hello else none
  | .up =>
      if s.link.keepaliveDue then some .keepalive
      else
        match nextServed s.sched.lastCtl fun id => (s.ctlSlot id).isSome with
        | some id => some (.control id)
        | none =>
            match nextServed s.sched.lastAck fun id => (s.ackFlag id).isSome with
            | some id => some (.ack id)
            | none => (nextServed s.sched.lastRec fun id => (s.sendableFor id).isSome).map .record

/-- The choice due: a frame is eligible and the transmitter is free (R96). -/
def State.choiceDue (s : State) : Option Choice :=
  match s.sched.tx with
  | some _ => none
  | none => s.nextChoice

/-- A frame's transmission begins (R80, R87, R95): its contents are fixed, it is counted, and in UP the keepalive timer
restarts. -/
def startFrame (f : Frame) (s : State) : State :=
  let s := { s with sched := { s.sched with tx := some f } }
  let s := modCounters (fun c => { c with framesSent := c.framesSent + 1#32 }) s
  if s.link.state = .up then
    modLink (fun l => { l with keepaliveTimer := some s.settings.keepaliveInterval }) s
  else s

/-- The scheduler's report of an ACK or NAK to the sink context (R137). -/
def reportAck (id : StreamId) (f : AckFlag) (s : State) : State :=
  match s.lookup id with
  | some i =>
      s.modSink i fun c =>
        if c.epoch = f.epoch then
          { c with ackCount := 0, ackTimer := none,
                   naksSent := if f.isNak then c.naksSent + 1#32 else c.naksSent }
        else c
  | none => s

/-- The body a RECORD frame is built from (R91, R99): the tag is 0 unless the record is a MARK. -/
def Record.body (r : Record) : RecBody :=
  { seq := r.seq, kind := r.kind, pos := r.pos, offset := r.offset, tag := r.tag.getD 0#8, data := r.data.getD [] }

/-- A source context after the record at its transmit pointer has been sent (R43, R99). -/
def SourceCtx.sent (c : SourceCtx) (r : Record) (set : Settings) : SourceCtx :=
  { c with
    queue := c.queue.map fun x => if x.seq = r.seq then { x with status := .inFlight, sentBefore := true } else x
    retransmitted := if r.sentBefore then c.retransmitted + 1#32 else c.retransmitted
    recordsSent := c.recordsSent + 1#32
    txPtr := c.txPtr + 1#16
    retxTimer := match c.retxTimer with | none => some set.retxTimeout | some t => some t }

/-- The transmission of a chosen frame begins (R96 to R99). -/
def beginFrame (ch : Choice) (s : State) : State :=
  match ch with
  | .hello =>
      startFrame (.hello Config.linkVersion s.link.heard) (modLink (fun l => { l with helloDue := false }) s)
  | .keepalive => startFrame .keepalive (modLink (fun l => { l with keepaliveDue := false }) s)
  | .control id =>
      match s.ctlSlot id with
      | some f =>
          let s := setCtlSlot id none { s with sched := { s.sched with lastCtl := id } }
          startFrame (.stream id f.epoch f.body) s
      | none => s
  | .ack id =>
      match s.ackFlag id with
      | some f =>
          let s := setAckFlag id none { s with sched := { s.sched with lastAck := id } }
          let s := reportAck id f s
          startFrame (.stream id f.epoch (if f.isNak then .nak f.seq else .ack f.seq)) s
      | none => s
  | .record id =>
      match s.sendableFor id with
      | some (i, c, r) =>
          let s := s.setRole i (.source (c.sent r s.settings))
          startFrame (.stream id c.epoch (.record r.body)) { s with sched := { s.sched with lastRec := id } }
      | none => s

/-- The last byte of a frame leaves the lane: the transmitter is free, and the frame is delivered if lane ready is true
(R80). -/
def endFrame (s : State) : State :=
  match s.sched.tx with
  | some f => { s with sched := { s.sched with tx := none, sent := some (f, s.link.laneReady) } }
  | none => s

end Sys2Proof.Machine
end

