-- ==== Sys2Proof/Machine/Event.lean ====
section
/-! DEFINITION. One event of the part: what every event ends with, the internal steps that belong to it (the offers of
R47, the grants of R17, the beginning of a transmission of R96), and how an outside event finds them done
(notes/assumptions/2.md). -/

namespace Sys2Proof.Machine

/-- The present values of the three conditions (R157): LINK_DOWN (R90), JOURNAL_LOW (R59), HOLDING (R13). -/
def State.conditions (s : State) : BitVec 13 :=
  (if s.settings.linkEnable ∧ s.link.state ≠ .up then Cause.bit .linkDown else 0#13)
    ||| (if s.freeCount < s.settings.journalLow then Cause.bit .journalLow else 0#13)
    ||| (if s.isHeld then Cause.bit .holding else 0#13)

/-- The conditions are judged on the state an event leaves (R156, R157). -/
def judge (s : State) : State :=
  { s with ev := s.ev.judge s.conditions }

/-- The event is not over: an offer or a grant of it is still due. -/
def State.midEvent (s : State) : Bool :=
  s.heldOfferDue || s.seedOfferDue || s.grantDue.isSome

/-- The conditions are judged once the event is over (R157). -/
def judgeIfOver (s : State) : State :=
  if s.midEvent then s else judge s

/-- A release is remembered only for a requester that waits (R47). -/
def keepOffers (s : State) : State :=
  { s with offers := { held := s.heldOfferDue, seed := s.seedOfferDue } }

/-- What every step ends with, in its event: the IDLE access unit takes a presented access (R1), the IDLE seed engine the
head of its queue (R66), the IDLE apply engine the next applicable head (R131); then, once no offer or grant is due, the
conditions are judged (R157). R9, R47 and R66 leave open whether, in one event, a newly taken write or the seed engine makes
its reservation test first; the write makes its test before the engine's first test and before every offer of the event
(DESIGN CHOICE, notes/assumptions/20.md). -/
def finish (s : State) : State :=
  if s.resetLow then s else judgeIfOver (keepOffers (applyChoose (seedTake (takePresented s))))

/-! ### Internal steps -/

/-- The offer to the held write, if it is due (R15, R47). -/
def stepOfferHeld (s : State) : State :=
  if s.heldOfferDue then finish (offerHeld s) else s

/-- The offer to the seed engine, if it is due; the held write's comes first (R46, R47). -/
def stepOfferSeed (s : State) : State :=
  let s := stepOfferHeld s
  if s.seedOfferDue then finish (offerSeed s) else s

/-- The grant to `r`, if the arbiter is to grant to it. The requests of the event's offers are placed first (R17). -/
def stepGrant (r : Requester) (s : State) : State :=
  let s := stepOfferSeed s
  if s.grantDue = some r then finish (grant r s) else s

/-- The beginning of a transmission, if a frame is eligible and the transmitter is free (R96). -/
def stepTransmit (s : State) : State :=
  match s.choiceDue with
  | some ch => finish (beginFrame ch s)
  | none => s

/-- The next internal step that is due: the held write's offer, the seed engine's (R47), a grant (R17), a transmission (R96).
Whether a grant or a transmission due in one event comes first, no rule says; the grant does
(DESIGN CHOICE, notes/assumptions/20.md). -/
def internalStep (s : State) : Option State :=
  if s.heldOfferDue then some (stepOfferHeld s)
  else if s.seedOfferDue then some (stepOfferSeed s)
  else
    match s.grantDue with
    | some r => some (stepGrant r s)
    | none =>
        match s.choiceDue with
        | some _ => some (stepTransmit s)
        | none => none

/-- Up to `fuel` internal steps, until none is due. -/
def settleFor : Nat → State → State
  | 0, s => s
  | fuel + 1, s =>
      match internalStep s with
      | some s' => settleFor fuel s'
      | none => s

/-- The internal steps of the event in progress are brought to their end. Sixteen are more than one event holds: after
at most three grants the port is busy, each with two offers, and one transmission begins. -/
def settle (s : State) : State :=
  settleFor 16 s

/-- No internal step is due: the part stands between two events. -/
def State.settled (s : State) : Bool :=
  (internalStep s).isNone

/-- An outside event: the internal steps of the event before it come first, then the event and what it ends with. -/
def outside (event : State → State) (s : State) : State :=
  finish (event (settle s))

end Sys2Proof.Machine
end

