-- ==== Sys2Proof/Machine/FramesIn.lean ====
section
/-! DEFINITION. The meanings of the frames the lane delivers (R83, R84, R86, R93, R94): one command for each kind, with its
fields, and FRAME_ERROR with the bytes delivered. -/

namespace Sys2Proof.Machine

/-- A delivered frame of the given fields, as an outside event; in DOWN it is not taken (R89). -/
def received (f : Frame) (s : State) : State :=
  outside (whenReceiving (deliver f)) s

/-- FRAME_ERROR: bytes delivered that the receive checker is to discard (R93). -/
def execFrameError (delivered : List Byte) (s : State) : Host.Outcome State Fault Refusal :=
  .next (outside (whenReceiving (deliverBytes delivered)) s)

/-- HELLO (R83, R86, R88). -/
def execHelloFrame (version : Byte) (heard : Bool) (s : State) : Host.Outcome State Fault Refusal :=
  .next (received (.hello version heard) s)

/-- KEEPALIVE (R84, R86). -/
def execKeepaliveFrame (s : State) : Host.Outcome State Fault Refusal :=
  .next (received .keepalive s)

/-- OPEN (R123, R124). -/
def execOpenFrame (id : StreamId) (epoch : Epoch) (length : Word) (reason : OpenReason) (s : State) :
    Host.Outcome State Fault Refusal :=
  .next (received (.stream id epoch (.openReq length reason)) s)

/-- OPEN_ACCEPT (R106). -/
def execOpenAcceptFrame (id : StreamId) (epoch : Epoch) (s : State) : Host.Outcome State Fault Refusal :=
  .next (received (.stream id epoch .openAccept) s)

/-- OPEN_REFUSE (R106). -/
def execOpenRefuseFrame (id : StreamId) (epoch : Epoch) (reason : RefuseReason) (s : State) :
    Host.Outcome State Fault Refusal :=
  .next (received (.stream id epoch (.openRefuse reason)) s)

/-- REOPEN (R139, R148). -/
def execReopenFrame (id : StreamId) (epoch : Epoch) (oldest next : Seq) (s : State) :
    Host.Outcome State Fault Refusal :=
  .next (received (.stream id epoch (.reopen oldest next)) s)

/-- REOPEN_REPLY (R112). -/
def execReopenReplyFrame (id : StreamId) (epoch : Epoch) (verdict : Verdict) (expected : Seq) (s : State) :
    Host.Outcome State Fault Refusal :=
  .next (received (.stream id epoch (.reopenReply verdict expected)) s)

/-- CLOSE that the lookup takes to a source context (R119). -/
def execCloseFrameAtSource (id : StreamId) (epoch : Epoch) (reason : CloseCode) (s : State) :
    Host.Outcome State Fault Refusal :=
  .next (received (.stream id epoch (.close reason)) s)

/-- CLOSE that the lookup takes to the sink side (R140): the same frame, and the lookup decides (R94). -/
def execCloseFrameAtSink (id : StreamId) (epoch : Epoch) (reason : CloseCode) (s : State) :
    Host.Outcome State Fault Refusal :=
  .next (received (.stream id epoch (.close reason)) s)

/-- CLOSE_ACK (R118). -/
def execCloseAckFrame (id : StreamId) (epoch : Epoch) (s : State) : Host.Outcome State Fault Refusal :=
  .next (received (.stream id epoch .closeAck) s)

/-- PROMOTED (R149). -/
def execPromotedFrame (id : StreamId) (epoch : Epoch) (lastApplied : Seq) (discarded : Byte) (s : State) :
    Host.Outcome State Fault Refusal :=
  .next (received (.stream id epoch (.promoted lastApplied discarded)) s)

/-- RECORD (R122, R126). -/
def execRecordFrame (id : StreamId) (epoch : Epoch) (r : RecBody) (s : State) : Host.Outcome State Fault Refusal :=
  .next (received (.stream id epoch (.record r)) s)

/-- ACK (R108). -/
def execAckFrame (id : StreamId) (epoch : Epoch) (seq : Seq) (s : State) : Host.Outcome State Fault Refusal :=
  .next (received (.stream id epoch (.ack seq)) s)

/-- NAK (R109). -/
def execNakFrame (id : StreamId) (epoch : Epoch) (seq : Seq) (s : State) : Host.Outcome State Fault Refusal :=
  .next (received (.stream id epoch (.nak seq)) s)

end Sys2Proof.Machine
end

