-- ==== Sys2Proof/Machine/Items.lean ====
section
/-! DEFINITION. The items of the management port: the item map and its layouts (R23, R168 to R171), the writing of window
entries (R24 to R29) and of settings (R169, R173). -/

namespace Sys2Proof.Machine

/-! ### The item map -/

/-- The twelve settings, in the order of their items (section 10.3). -/
inductive Setting where
  | tickDivisor | holdLimit | retxTimeout | retxLimit | controlTimeout | ackEvery | ackDelay | helloInterval
  | keepaliveInterval | silenceLimit | journalLow | linkEnable
  deriving DecidableEq, Repr

/-- A mapped item, by group (item map of section 10.2). -/
inductive Item where
  | identification
  | setting (x : Setting)
  | entry (i : WinIdx) (x : EntryItem)
  | linkStatus
  | linkCounter (k : Nat)
  | journalStatus
  | eventPending
  | eventMask
  | eventConditions
  | noticeSet
  | stream (id : StreamId) (k : Nat)
  deriving DecidableEq, Repr

/-- The settings from item 0010h on. -/
def settingList : List Setting :=
  [.tickDivisor, .holdLimit, .retxTimeout, .retxLimit, .controlTimeout, .ackEvery, .ackDelay, .helloInterval,
    .keepaliveInterval, .silenceLimit, .journalLow, .linkEnable]

/-- The items of a window entry, +0 to +3. -/
def entryItemList : List EntryItem := [.mode, .base, .length, .options]

/-- The window entry item of a number 0100h to 011Fh, counted from 0100h. -/
def entryItemOf (n : Nat) : Option Item :=
  match allWindows[n / 4]?, entryItemList[n % 4]? with
  | some i, some x => some (.entry i x)
  | _, _ => none

/-- The stream item of a number 1000h to 10FFh, counted from 1000h: numbers 12 to 15 of a block are unmapped. -/
def streamItemOf (n : Nat) : Option Item :=
  if n / 16 < 16 ∧ n % 16 < 12 then some (.stream (BitVec.ofNat 4 (n / 16)) (n % 16)) else none

/-- The item a number names; `none` for an unmapped one (item map). -/
def itemOf (item : BitVec 16) : Option Item :=
  let n := item.toNat
  if n = 0x0000 then some .identification
  else if 0x0010 ≤ n ∧ n ≤ 0x001B then (settingList[n - 0x0010]?).map .setting
  else if 0x0100 ≤ n ∧ n ≤ 0x011F then entryItemOf (n - 0x0100)
  else if n = 0x0200 then some .linkStatus
  else if 0x0201 ≤ n ∧ n ≤ 0x0206 then some (.linkCounter (n - 0x0201))
  else if n = 0x0210 then some .journalStatus
  else if n = 0x0300 then some .eventPending
  else if n = 0x0301 then some .eventMask
  else if n = 0x0302 then some .eventConditions
  else if n = 0x0303 then some .noticeSet
  else if 0x1000 ≤ n ∧ n ≤ 0x10FF then streamItemOf (n - 0x1000)
  else none

/-! ### Codes of fields (R170, R171) -/

/-- MODE: 0 OFF, 1 SOURCE, 2 SINK. -/
def Role.code : Role → Nat
  | .off => 0
  | .source _ => 1
  | .sink _ => 2

/-- POLICY: 0 HOLD, 1 SPILL. -/
def Policy.code : Policy → Nat
  | .hold => 0
  | .spill => 1

/-- The link state: 0 DOWN, 1 TRAINING, 2 UP. -/
def LinkState.code : LinkState → Nat
  | .down => 0
  | .training => 1
  | .up => 2

/-- The states of a source context. -/
def SrcState.code : SrcState → Nat
  | .closed => 0
  | .pending => 1
  | .opening => 2
  | .seeding => 3
  | .live => 4
  | .suspended => 5
  | .resuming => 6
  | .closing => 7
  | .fault => 8

/-- The states of a sink context. -/
def SinkState.code : SinkState → Nat
  | .closed => 0
  | .seeding => 3
  | .live => 4
  | .suspended => 5

/-- Prior: 0 SEEDING, 1 LIVE. -/
def Prior.code : Prior → Nat
  | .seeding => 0
  | .live => 1

/-- The open reason: 0 none, 1 NEW, 2 RESEED. -/
def openReasonCode : Option OpenReason → Nat
  | none => 0
  | some .new => 1
  | some .reseed => 2

/-- The fault reason. -/
def FaultReason.code : FaultReason → Nat
  | .none => 0
  | .noReply => 1
  | .noProgress => 2
  | .refusedNoWindow => 3
  | .refusedNotSink => 4
  | .refusedLength => 5
  | .peerClosed => 6
  | .peerPromoted => 7
  | .memoryError => 8

/-- The close reason. -/
def CloseReason.code : CloseReason → Nat
  | .none => 0
  | .peer => 1
  | .localClose => 2
  | .applyError => 3

/-- A last fence outcome's code: 1 COMPLETED, 2 ABANDONED. -/
def FenceOutcome.code : FenceOutcome → Nat
  | .completed => 1
  | .abandoned => 2

/-! ### Reading items -/

/-- The value of a setting; LINK_ENABLE is 0 or 1. -/
def Settings.get (x : Settings) : Setting → Nat
  | .tickDivisor => x.tickDivisor
  | .holdLimit => x.holdLimit
  | .retxTimeout => x.retxTimeout
  | .retxLimit => x.retxLimit
  | .controlTimeout => x.controlTimeout
  | .ackEvery => x.ackEvery
  | .ackDelay => x.ackDelay
  | .helloInterval => x.helloInterval
  | .keepaliveInterval => x.keepaliveInterval
  | .silenceLimit => x.silenceLimit
  | .journalLow => x.journalLow
  | .linkEnable => x.linkEnable.toNat

/-- The value of a window entry item (R23, R170). -/
def Entry.read (e : Entry) : EntryItem → Word
  | .mode => putField e.role.code 0 ||| putField e.stream.toNat 8
  | .base => e.base
  | .length => e.length
  | .options =>
      putField e.policy.code 0 ||| putField e.quota 8 ||| putFlag e.readGuard 24 ||| putFlag e.yieldOn 26

/-- The link status item (R170). -/
def State.linkStatus (s : State) : Word :=
  putField s.link.state.code 0 ||| putFlag s.link.heard 4 ||| putFlag s.link.laneReady 5
    ||| putFlag s.settings.linkEnable 6

/-- The link counters, items 0201h to 0206h. -/
def LinkCounters.read (c : LinkCounters) : Nat → Word
  | 0 => c.framesSent
  | 1 => c.framesReceived
  | 2 => c.crcErrors
  | 3 => c.formatErrors
  | 4 => c.versionMismatches
  | _ => c.staleFrames

/-- A fence OUTSTANDING with its tag (R171, +6); with none outstanding the tag's field is free
(notes/assumptions/12.md). -/
def fenceFields (free : Word) : Option Tag → Word
  | none => free &&& 0x0000FF00#32
  | some t => putField 1 0 ||| putField t.toNat 8

/-- The last fence outcome with its tag (R171, +6); with none the tag's field is free (notes/assumptions/12.md). -/
def lastFenceFields (free : Word) : Option (FenceOutcome × Tag) → Word
  | none => free &&& 0xFF000000#32
  | some (o, t) => putField o.code 16 ||| putField t.toNat 24

/-- The PROMOTION record (R171, +7); with none present its fields are free (notes/assumptions/12.md). -/
def promotionFields (free : Word) : Option Promotion → Word
  | none => free &&& 0x07FFFFFF#32
  | some p =>
      putField 1 31 ||| putField p.epoch.toNat 16 ||| putField p.lastApplied.toNat 0 ||| putField p.discarded 24

/-- The free value of the next read of item +6 or +7. -/
def State.absent (s : State) : Word :=
  Config.absentFields s.freeReads

/-- A source stream's block, +0 to +11 without +7 (R171). -/
def readSource (s : State) (i : WinIdx) (c : SourceCtx) : Nat → Word
  | 0 =>
      putField 1 0 ||| putField c.state.code 4 ||| putField c.prior.code 8 ||| putField c.epoch.toNat 16
        ||| putFlag c.diverged 24 ||| putField i.val 28
  | 1 => putField c.oldest.toNat 0 ||| putField c.nextSeq.toNat 16
  | 2 =>
      putField c.txPtr.toNat 0 ||| putField c.retryCount 16 ||| putField c.triesLeft 20
        ||| putField (openReasonCode c.openReason) 22
  | 3 => putField (s.recordCount i) 0 ||| putField (s.reservedCount i) 16
  | 4 => putField c.cursor 0
  | 5 => putField c.faultReason.code 0
  | 6 => fenceFields s.absent c.fence ||| lastFenceFields s.absent c.lastFence
  | 8 => c.recordsSent
  | 9 => c.retransmitted
  | 10 => c.merges
  | 11 => c.reseeds
  | _ => 0#32

/-- A sink stream's block, +0 to +11 without +7 (R171). -/
def readSink (i : WinIdx) (c : SinkCtx) : Nat → Word
  | 0 =>
      putField 2 0 ||| putField c.state.code 4 ||| putField c.prior.code 8 ||| putField c.epoch.toNat 16
        ||| putFlag c.nakOutstanding 25 ||| putField i.val 28
  | 1 => putField c.expected.toNat 0
  | 3 => putField c.held.length 0 ||| putField c.ackCount 16
  | 5 => putField c.closeReason.code 0
  | 8 => c.applied
  | 9 => c.duplicates
  | 10 => c.beyond
  | 11 => c.naksSent
  | _ => 0#32

/-- The item +k of a stream's block (R171): 0 where no enabled entry carries the identifier. -/
def State.readStream (s : State) (id : StreamId) (k : Nat) : Word :=
  match s.lookup id with
  | none => 0#32
  | some i =>
      if k = 7 then promotionFields s.absent (s.entry i).promotion
      else
        match (s.entry i).role with
        | .off => 0#32
        | .source c => readSource s i c k
        | .sink c => readSink i c k

/-- The value of a mapped item (R168, R170, R171). -/
def State.itemValue (s : State) : Item → Word
  | .identification => Config.identification
  | .setting x => BitVec.ofNat 32 (s.settings.get x)
  | .entry i x => (s.entry i).read x
  | .linkStatus => s.linkStatus
  | .linkCounter k => s.link.counters.read k
  | .journalStatus => BitVec.ofNat 32 s.freeCount
  | .eventPending => s.ev.pending.setWidth 32
  | .eventMask => s.ev.unmasked.setWidth 32
  | .eventConditions => s.conditions.setWidth 32
  | .noticeSet => s.ev.notice.setWidth 32
  | .stream id k => s.readStream id k

/-- What reading an item changes (R162, R168): a first status item removes its stream from the notice set. Items +6 and +7
use up a free value (notes/assumptions/12.md). -/
def readEffect (x : Item) (s : State) : State :=
  match x with
  | .stream id 0 => { s with ev := s.ev.dropNotice id }
  | .stream _ 6 => { s with freeReads := s.freeReads + 1 }
  | .stream _ 7 => { s with freeReads := s.freeReads + 1 }
  | _ => s

/-- A READ_ITEM at its execution (R168): the state, the result and the value driven. -/
def readItem (item : BitVec 16) (s : State) : State × Result × Word :=
  match itemOf item with
  | some x => (readEffect x s, .done, s.itemValue x)
  | none => (s, .badItem, 0#32)

/-! ### Writing a window entry -/

/-- The entry's context is in a state other than CLOSED (R24). -/
def Entry.busy (e : Entry) : Bool :=
  match e.role with
  | .off => false
  | .source c => c.state != .closed
  | .sink c => c.state != .closed

/-- BASE plus LENGTH does not exceed 2^32 (R22, R25). -/
def rangeFits (base length : Word) : Bool :=
  base.toNat + length.toNat ≤ 4294967296

/-- The range check of R25 on the fields a write carries. -/
def Entry.inRange (e : Entry) (x : EntryItem) (v : Word) : Bool :=
  match x with
  | .mode => getField v 0 2 ≤ 2 && getField v 8 8 ≤ 15
  | .base => v.toNat % 64 == 0 && rangeFits v e.length
  | .length => v.toNat % 64 == 0 && 64 ≤ v.toNat && v.toNat ≤ 16777216 && rangeFits e.base v
  | .options =>
      getField v 0 2 ≤ 1 && (4 ≤ getField v 8 9 && getField v 8 9 ≤ 256) && getField v 24 2 ≤ 1
        && getField v 26 2 ≤ 1

/-- The context effect of a MODE code on an entry's role (R29). -/
def Role.become (r : Role) (mode : Nat) : Role :=
  match r, mode with
  | .source c, 1 => .source c
  | .sink c, 2 => .sink c
  | _, 1 => .source (newSource 0#8)
  | _, 2 => .sink newSink
  | _, _ => .off

/-- The entry with a write's values in place and its PROMOTION record absent (R27, R29, R170). -/
def Entry.written (e : Entry) (x : EntryItem) (v : Word) : Entry :=
  match x with
  | .mode => { e with role := e.role.become (getField v 0 2), stream := v.extractLsb' 8 4, promotion := none }
  | .base => { e with base := v, promotion := none }
  | .length => { e with length := v, promotion := none }
  | .options =>
      { e with policy := if getField v 0 2 = 0 then .hold else .spill, quota := getField v 8 9,
               readGuard := getField v 24 2 = 1, yieldOn := getField v 26 2 = 1, promotion := none }

/-- Two entries share a byte of their ranges or carry the same STREAM (R26). -/
def Entry.clashes (e f : Entry) : Bool :=
  (e.base.toNat < f.base.toNat + f.length.toNat && f.base.toNat < e.base.toNat + e.length.toNat)
    || e.stream == f.stream

/-- The conflict check of R26: an entry enabled after the write against every other enabled entry. A write of the options
item is not checked. -/
def State.conflicts (s : State) (i : WinIdx) (x : EntryItem) (e : Entry) : Bool :=
  x != .options && e.enabled && allWindows.any fun j => j != i && (s.entry j).enabled && e.clashes (s.entry j)

/-- A write of an item of a window entry (R24 to R27). -/
def writeEntry (i : WinIdx) (x : EntryItem) (v : Word) (s : State) : State × Result :=
  let e := s.entry i
  if e.busy then (s, .refusedBusy)
  else if !e.inRange x v then (s, .refusedRange)
  else if s.conflicts i x (e.written x v) then (s, .refusedConflict)
  else (s.setEntry i (e.written x v), .done)

/-! ### Writing a setting -/

/-- The least and the greatest value of a setting (section 10.3). -/
def Setting.range : Setting → Nat × Nat
  | .tickDivisor => (1, 1023)
  | .holdLimit => (1, 65535)
  | .retxTimeout => (10, 65535)
  | .retxLimit => (1, 15)
  | .controlTimeout => (10, 65535)
  | .ackEvery => (1, 16)
  | .ackDelay => (1, 255)
  | .helloInterval => (10, 65535)
  | .keepaliveInterval => (10, 65535)
  | .silenceLimit => (20, 65535)
  | .journalLow => (0, 255)
  | .linkEnable => (0, 1)

/-- A value lies in a setting's range and passes the cross-check of SILENCE_LIMIT and KEEPALIVE_INTERVAL (R173). -/
def Settings.accepts (x : Settings) (k : Setting) (v : Nat) : Bool :=
  k.range.1 ≤ v && v ≤ k.range.2
    && (match k with
      | .silenceLimit => x.keepaliveInterval < v
      | .keepaliveInterval => v < x.silenceLimit
      | _ => true)

/-- The settings with one of them replaced. -/
def Settings.put (x : Settings) (k : Setting) (v : Nat) : Settings :=
  match k with
  | .tickDivisor => { x with tickDivisor := v }
  | .holdLimit => { x with holdLimit := v }
  | .retxTimeout => { x with retxTimeout := v }
  | .retxLimit => { x with retxLimit := v }
  | .controlTimeout => { x with controlTimeout := v }
  | .ackEvery => { x with ackEvery := v }
  | .ackDelay => { x with ackDelay := v }
  | .helloInterval => { x with helloInterval := v }
  | .keepaliveInterval => { x with keepaliveInterval := v }
  | .silenceLimit => { x with silenceLimit := v }
  | .journalLow => { x with journalLow := v }
  | .linkEnable => { x with linkEnable := v = 1 }

/-- What a write of ACK_EVERY does to the sink context of window `i` (R137): a count above the new value is set to it, and
in SEEDING or LIVE an ACK is flagged. -/
def clampAck (s : State) (i : WinIdx) : State :=
  match s.sink? i with
  | some c =>
      if s.settings.ackEvery < c.ackCount then
        let s := s.modSink i fun c => { c with ackCount := s.settings.ackEvery }
        if c.state = .seeding ∨ c.state = .live then flagAck (s.streamOf i) c s else s
      else s
  | none => s

/-- What the setting's owner does in the event of an accepted write that changed it (R89, R137). JOURNAL_LOW is judged
with the conditions at the end of the event (R59, R157); the others act later. -/
def settingChanged (k : Setting) (s : State) : State :=
  match k with
  | .linkEnable => if s.settings.linkEnable then tryTrain s else goDown s
  | .ackEvery => allWindows.foldl clampAck s
  | _ => s

/-- A write of a settings item (R173): the present value is accepted and changes nothing. -/
def writeSetting (k : Setting) (v : Word) (s : State) : State × Result :=
  if !s.settings.accepts k v.toNat then (s, .refusedRange)
  else if s.settings.get k = v.toNat then (s, .done)
  else (settingChanged k { s with settings := s.settings.put k v.toNat }, .done)

/-- A write of the event mask item (R159). -/
def writeMask (v : Word) (s : State) : State :=
  { s with ev := { s.ev with unmasked := v.extractLsb' 0 13 } }

/-- A WRITE_ITEM at its execution (R169). -/
def writeItem (item : BitVec 16) (v : Word) (s : State) : State × Result :=
  match itemOf item with
  | none => (s, .badItem)
  | some (.setting k) => writeSetting k v s
  | some (.entry i x) => writeEntry i x v s
  | some .eventMask => (writeMask v s, .done)
  | some _ => (s, .readOnly)

end Sys2Proof.Machine
end

