-- ==== Sys2Proof/Machine/Management.lean ====
section
/-! DEFINITION. The management port (chapter Management Port): transactions and what SDO carries (R165 to R167), the
stream operations (R174), LINK_RESTART and DEVICE_RESET (R175, R176), the soft reset of every block, and the meanings of
the management commands. -/

namespace Sys2Proof.Machine

/-! ### Codes -/

/-- The result codes (section 10.1). -/
def Result.code : Result → Byte
  | .done => 0x80#8
  | .refusedBusy => 0x81#8
  | .refusedState => 0x82#8
  | .refusedConflict => 0x83#8
  | .refusedRange => 0x84#8
  | .refusedNoSpace => 0x85#8
  | .badItem => 0x86#8
  | .readOnly => 0x87#8
  | .badCommand => 0x88#8

/-- The five stream operations (section 10.1). -/
inductive StreamOp where
  | openOp | close | reseed | fence | promote
  deriving DecidableEq, Repr

/-- The operation a code names, if any. -/
def StreamOp.ofCode (n : Nat) : Option StreamOp :=
  match n with
  | 1 => some .openOp
  | 2 => some .close
  | 3 => some .reseed
  | 4 => some .fence
  | 5 => some .promote
  | _ => none

/-- The code of an operation. -/
def StreamOp.code : StreamOp → Byte
  | .openOp => 1#8
  | .close => 2#8
  | .reseed => 3#8
  | .fence => 4#8
  | .promote => 5#8

/-! ### Soft reset -/

/-- What soft reset does to the access unit (R21): a held write is answered ERROR; the reservation and the journaling of
the access are gone with the journal. -/
def softAccess (s : State) : State :=
  match s.acc.phase with
  | .waitSlots _ _ => respond false [] s
  | .idle | .requesting _ => { s with acc := { s.acc with resv := none } }
  | .granted a _ => { s with acc := { s.acc with phase := .granted a none, resv := none } }

/-- A source context after soft reset (R38, R62, R121). The diverged flag is judged on the state before the event: a context
in CLOSING, which the link's leaving UP in that event would take to CLOSED (R88, R111), counts as not CLOSED. The spec does
not order the two effects (DESIGN CHOICE, notes/assumptions/23.md). -/
def SourceCtx.softReset (c : SourceCtx) : SourceCtx :=
  { newSource c.epoch with
    lastFence := match c.fence with
      | some t => some (.abandoned, t)
      | none => c.lastFence
    faultReason := c.faultReason
    diverged := c.diverged || c.state != .closed }

/-- A sink context after soft reset (R38, R144). -/
def SinkCtx.softReset (c : SinkCtx) : SinkCtx :=
  { newSink with epoch := c.epoch, closeReason := if c.state = .closed then c.closeReason else .localClose }

/-- A window entry after soft reset (R38). -/
def Entry.softReset (e : Entry) : Entry :=
  { e with
    role := match e.role with
      | .off => .off
      | .source c => .source c.softReset
      | .sink c => .sink c.softReset
    promotion := none }

/-- The seed engine after soft reset (R79): a read in flight is orphaned. -/
def SeedEngine.softReset (e : SeedEngine) : SeedEngine :=
  { phase := if e.phase = .reading then .reading else .idle, active := none, chunkCount := 0, resv := none,
    flight := e.flight.map fun f => { f with fifth := false, orphan := true }, queue := [] }

/-- The apply engine after soft reset (R144). -/
def ApplyEngine.softReset (a : ApplyEngine) : ApplyEngine :=
  { phase := if a.phase = .writing then .writing else .idle
    served := if a.phase = .writing then a.served else none
    last := 15#4 }

/-- The link controller after soft reset, before it tries to train (R101). -/
def Link.softReset (l : Link) : Link :=
  { state := .down, heard := false, helloTimer := none, silenceTimer := none, keepaliveTimer := none,
    helloDue := false, keepaliveDue := false, laneReady := l.laneReady, counters := zeroCounters }

/-- The transmit scheduler after soft reset (R101): a transmission that has begun runs to its end. -/
def Sched.softReset (x : Sched) : Sched :=
  { ctl := Vector.replicate 16 none, ack := Vector.replicate 16 none, lastCtl := 15#4, lastAck := 15#4,
    lastRec := 15#4, tx := x.tx, sent := x.sent }

/-- Every entry of the window table after soft reset. -/
def softWindows (s : State) : State :=
  allWindows.foldl (fun s i => s.setEntry i (s.entry i).softReset) s

/-- Soft reset, at the rise of SCS_N that ends DEVICE_RESET, in one event (R176): every block takes the values of its own
chapter; the settings, the masks, the tick and the arbiter's order stay. An access that waits presented while the reset ends
a held write is taken in the same event (`finish`), after the latches are cleared, and a WRITE_REFUSED or READ_REFUSED it
raises stays pending. Whether R164 clears such a cause with the rest the spec leaves open (DESIGN CHOICE,
notes/assumptions/27.md). -/
def softReset (s : State) : State :=
  let s := softWindows (softAccess s)
  tryTrain { s with
    seed := s.seed.softReset
    apply := s.apply.softReset
    link := s.link.softReset
    sched := s.sched.softReset
    ev := s.ev.softReset
    port := { s.port with txn := none, resetDue := false }
    offers := { held := false, seed := false } }

/-- The rise of SCS_N: the soft reset that is due takes place (R176). -/
def rise (s : State) : State :=
  if s.port.resetDue then softReset s else s

/-- The rise of SCS_N where a soft reset is due, with the internal steps that follow it. -/
def riseIfDue (s : State) : State :=
  if s.port.resetDue then settle (finish (rise s)) else s

/-! ### Transactions -/

/-- What SDO carries in the first `clocked` bytes of a transaction that executed (R165): 00h, the data out just before the
result byte, and the result code from there on. -/
def sdoBytes (resultAt clocked : Nat) (data : List Byte) (r : Result) : List Byte :=
  (List.replicate (resultAt - data.length) 0#8 ++ data ++ List.replicate (clocked - resultAt) r.code).take clocked

/-- A whole transaction that executes at the end of byte `execAt` and gives its result from byte `resultAt`, of which
`clocked` bytes are complete when SCS_N rises (R165, R166). A rise before the execution point executes nothing. -/
def transact (execAt resultAt clocked : Nat) (act : State → State × Result × List Byte) (s : State) : State :=
  if execAt < clocked then
    let (s, r, data) := act s
    { s with port := { txn := none, resetDue := false, result := some r, sdo := sdoBytes resultAt clocked data r } }
  else
    { s with port := { txn := none, resetDue := false, result := none, sdo := List.replicate clocked 0#8 } }

/-- A management transaction as an outside event. A soft reset that is due comes first, at the rise of SCS_N that ended
the transaction before. While RESET_N is asserted there is no transaction (R177). -/
def manage (event : State → State) (s : State) : State :=
  if s.resetLow then s else finish (event (riseIfDue (settle s)))

/-- An action without data out. -/
def plain (act : State → State × Result) (s : State) : State × Result × List Byte :=
  let (s, r) := act s
  (s, r, [])

/-- READ_ITEM (R166, R168). -/
def readTransaction (item : BitVec 16) (clocked : Nat) : State → State :=
  transact 2 8 clocked fun s =>
    let (s, r, v) := readItem item s
    (s, r, be32 v)

/-- WRITE_ITEM (R166, R169). -/
def writeTransaction (item : BitVec 16) (v : Word) (clocked : Nat) : State → State :=
  transact 6 7 clocked (plain (writeItem item v))

/-- A stream operation on the context the lookup finds (R31, R174). -/
def streamOp (op : StreamOp) (argument : Byte) (i : WinIdx) (s : State) : State × Result :=
  match (s.entry i).role, op with
  | .source c, .openOp => openSource i c s
  | .source c, .close => closeSource i c s
  | .source c, .reseed => reseedSource i c s
  | .source c, .fence => fenceSource i c argument s
  | .sink c, .close => closeSink i c s
  | .sink c, .promote => promoteSink i c s
  | _, _ => (s, .refusedState)

/-- A STREAM_CMD at its execution (R174). -/
def streamCmd (id op argument : Byte) (s : State) : State × Result :=
  if 15 < id.toNat then (s, .refusedRange)
  else
    match StreamOp.ofCode op.toNat with
    | none => (s, .refusedRange)
    | some op =>
        match s.lookup (id.setWidth 4) with
        | none => (s, .refusedState)
        | some i => streamOp op argument i s

/-- STREAM_CMD (R166, R174). -/
def streamTransaction (id op argument : Byte) (clocked : Nat) : State → State :=
  transact 3 4 clocked (plain (streamCmd id op argument))

/-- ACK_EVENTS (R158); positions 13 to 15 are ignored. -/
def ackTransaction (causes : BitVec 16) (clocked : Nat) : State → State :=
  transact 2 3 clocked (plain fun s => ({ s with ev := s.ev.acknowledge (causes.extractLsb' 0 13) }, .done))

/-- LINK_RESTART (R89, R175): no effect in DOWN. -/
def restartLink (s : State) : State :=
  if s.link.state = .down then s else dropLink s

/-- LINK_RESTART as a transaction (R175). -/
def restartTransaction (clocked : Nat) : State → State :=
  transact 0 1 clocked (plain fun s => (restartLink s, .done))

/-- DEVICE_RESET up to the rise of SCS_N (R176): a soft reset is due once the command byte is complete. -/
def resetTransaction (clocked : Nat) (s : State) : State :=
  let s := transact 0 1 clocked (plain fun s => (s, .done)) s
  if 0 < clocked then
    { s with port := { s.port with txn := some { count := clocked, command := 0x3C#8 }, resetDue := true } }
  else s

/-- A transaction given as its bytes, by its command byte (R165, R167). -/
def byteTransaction (command : Byte) (later : List Byte) : State → State :=
  let n := 1 + later.length
  let b (k : Nat) : Byte := later.getD k 0#8
  match command.toNat with
  | 0x31 => readTransaction (word16 (b 0) (b 1)) n
  | 0x32 => writeTransaction (word16 (b 0) (b 1)) (word32 (b 2) (b 3) (b 4) (b 5)) n
  | 0x33 => streamTransaction (b 0) (b 1) (b 2) n
  | 0x34 => ackTransaction (word16 (b 0) (b 1)) n
  | 0x35 => restartTransaction n
  | 0x3C => resetTransaction n
  | _ => transact 0 1 n (plain fun s => (s, .badCommand))

/-! ### The commands -/

/-- The number of an item of a window entry (item map). -/
def entryItemNumber (i : WinIdx) (x : EntryItem) : BitVec 16 :=
  BitVec.ofNat 16 (0x0100 + 4 * i.val + match x with
    | .mode => 0
    | .base => 1
    | .length => 2
    | .options => 3)

/-- The number of a stream's first status item (item map). -/
def statusItemNumber (id : StreamId) : BitVec 16 :=
  BitVec.ofNat 16 (0x1000 + 16 * id.toNat)

/-- READ_ITEM (R168). -/
def execReadItem (item : BitVec 16) (clocked : Nat) (s : State) : Host.Outcome State Fault Refusal :=
  .next (manage (readTransaction item clocked) s)

/-- STREAM_STATUS_READ: the READ_ITEM of a stream's first status item (R162, R168). -/
def execStreamStatusRead (id : StreamId) (clocked : Nat) (s : State) : Host.Outcome State Fault Refusal :=
  .next (manage (readTransaction (statusItemNumber id) clocked) s)

/-- WRITE_ITEM (R169). -/
def execWriteItem (item : BitVec 16) (value : Word) (clocked : Nat) (s : State) : Host.Outcome State Fault Refusal :=
  .next (manage (writeTransaction item value clocked) s)

/-- WINDOW_ENTRY_WRITE: the WRITE_ITEM of an entry's item (R24 to R29). -/
def execWindowEntryWrite (i : WinIdx) (x : EntryItem) (value : Word) (clocked : Nat) (s : State) :
    Host.Outcome State Fault Refusal :=
  .next (manage (writeTransaction (entryItemNumber i x) value clocked) s)

/-- EVENT_MASK_WRITE: the WRITE_ITEM of item 0301h (R159). -/
def execEventMaskWrite (value : Word) (clocked : Nat) (s : State) : Host.Outcome State Fault Refusal :=
  .next (manage (writeTransaction 0x0301#16 value clocked) s)

/-- LINK_ENABLE_WRITE: the WRITE_ITEM of item 001Bh (R89, R173). -/
def execLinkEnableWrite (value : Word) (clocked : Nat) (s : State) : Host.Outcome State Fault Refusal :=
  .next (manage (writeTransaction 0x001B#16 value clocked) s)

/-- JOURNAL_LOW_WRITE: the WRITE_ITEM of item 001Ah (R59, R173). -/
def execJournalLowWrite (value : Word) (clocked : Nat) (s : State) : Host.Outcome State Fault Refusal :=
  .next (manage (writeTransaction 0x001A#16 value clocked) s)

/-- ACK_EVERY_WRITE: the WRITE_ITEM of item 0015h (R137, R173). -/
def execAckEveryWrite (value : Word) (clocked : Nat) (s : State) : Host.Outcome State Fault Refusal :=
  .next (manage (writeTransaction 0x0015#16 value clocked) s)

/-- TICK_DIVISOR_WRITE: the WRITE_ITEM of item 0010h (R172, R173). -/
def execTickDivisorWrite (value : Word) (clocked : Nat) (s : State) : Host.Outcome State Fault Refusal :=
  .next (manage (writeTransaction 0x0010#16 value clocked) s)

/-- OPEN (R103, R174). -/
def execOpenOperation (id argument : Byte) (clocked : Nat) (s : State) : Host.Outcome State Fault Refusal :=
  .next (manage (streamTransaction id StreamOp.openOp.code argument clocked) s)

/-- CLOSE (R117, R174). -/
def execCloseOperation (id argument : Byte) (clocked : Nat) (s : State) : Host.Outcome State Fault Refusal :=
  .next (manage (streamTransaction id StreamOp.close.code argument clocked) s)

/-- CLOSE of a sink stream (R141, R174): the same transaction, which the lookup takes to the context. -/
def execSinkCloseOperation (id argument : Byte) (clocked : Nat) (s : State) : Host.Outcome State Fault Refusal :=
  .next (manage (streamTransaction id StreamOp.close.code argument clocked) s)

/-- RESEED (R114, R174). -/
def execReseedOperation (id argument : Byte) (clocked : Nat) (s : State) : Host.Outcome State Fault Refusal :=
  .next (manage (streamTransaction id StreamOp.reseed.code argument clocked) s)

/-- FENCE with its tag (R57, R174). -/
def execFenceOperation (id tag : Byte) (clocked : Nat) (s : State) : Host.Outcome State Fault Refusal :=
  .next (manage (streamTransaction id StreamOp.fence.code tag clocked) s)

/-- PROMOTE (R145, R174). -/
def execPromoteOperation (id argument : Byte) (clocked : Nat) (s : State) : Host.Outcome State Fault Refusal :=
  .next (manage (streamTransaction id StreamOp.promote.code argument clocked) s)

/-- ACK_EVENTS (R158). -/
def execAckEvents (causes : BitVec 16) (clocked : Nat) (s : State) : Host.Outcome State Fault Refusal :=
  .next (manage (ackTransaction causes clocked) s)

/-- LINK_RESTART (R175). -/
def execLinkRestart (clocked : Nat) (s : State) : Host.Outcome State Fault Refusal :=
  .next (manage (restartTransaction clocked) s)

/-- DEVICE_RESET (R176). -/
def execDeviceReset (clocked : Nat) (s : State) : Host.Outcome State Fault Refusal :=
  .next (manage (resetTransaction clocked) s)

/-- SOFT_RESET: the rise of SCS_N that ends a DEVICE_RESET (R176). -/
def execSoftReset (s : State) : Host.Outcome State Fault Refusal :=
  .next (outside rise s)

/-- BAD_COMMAND: a transaction whose command byte names none of the six codes (R167). -/
def execBadCommand (command : Byte) (later : List Byte) (s : State) : Host.Outcome State Fault Refusal :=
  .next (manage (byteTransaction command later) s)

end Sys2Proof.Machine
end

