-- ==== Sys2Proof/Machine/MemoryPath.lean ====
section
/-! DEFINITION. The meanings of the commands of the local bus and the memory port: accesses, grants, answers and the slot
arbiter's offers (chapters The Memory Path, The Journal, Seeding; R131 to R133). -/

namespace Sys2Proof.Machine

/-- The master presents an access at the local bus port (R1). -/
def present (a : Access) (s : State) : State :=
  { s with bus := { s.bus with presented := some a } }

/-- ACCESS_PRESENTED: the IDLE access unit takes it in the same event (R1). -/
def execAccessPresented (a : Access) (s : State) : Host.Outcome State Fault Refusal :=
  .next (outside (present a) s)

/-- ACCESS_GRANT (R10). -/
def execAccessGrant (s : State) : Host.Outcome State Fault Refusal :=
  .next (stepGrant .access s)

/-- The memory's answer, handed to what takes OK and ERROR. An answer to an operation begun before the last pin reset is
ignored (R20, R178). How the part tells it from the answer to a new operation the spec leaves open; the command says which
it is (DESIGN CHOICE, notes/assumptions/22.md). -/
def handAnswer (ans : Answer) (take : Bool → State → State) (s : State) : State :=
  match ans with
  | .ok => take true s
  | .error => take false s
  | .late => s

/-- ACCESS_ANSWER: OK or ERROR, with the data of a read (R3, R19); ignored when late (R20, R178). -/
def execAccessAnswer (ans : Answer) (data : BitVec 512) (s : State) : Host.Outcome State Fault Refusal :=
  .next (outside (handAnswer ans fun ok => answerAccess ok data) s)

/-- SEED_GRANT (R68). -/
def execSeedGrant (s : State) : Host.Outcome State Fault Refusal :=
  .next (stepGrant .seed s)

/-- SEED_READ_ANSWER: OK with the chunk's 64 bytes, or ERROR (R69, R76, R77); ignored when late (R20, R178). -/
def execSeedReadAnswer (ans : Answer) (data : BitVec 512) (s : State) : Host.Outcome State Fault Refusal :=
  .next (outside (handAnswer ans fun ok => answerSeed ok data) s)

/-- APPLY_GRANT (R132). -/
def execApplyGrant (s : State) : Host.Outcome State Fault Refusal :=
  .next (stepGrant .apply s)

/-- APPLY_ANSWER: OK or ERROR (R133, R142); ignored when late (R20, R178). -/
def execApplyAnswer (ans : Answer) (s : State) : Host.Outcome State Fault Refusal :=
  .next (outside (handAnswer ans answerApply) s)

/-- SLOT_OFFER_HELD_WRITE (R15, R47). -/
def execSlotOfferHeldWrite (s : State) : Host.Outcome State Fault Refusal :=
  .next (stepOfferHeld s)

/-- SLOT_OFFER_SEED (R46, R47). -/
def execSlotOfferSeed (s : State) : Host.Outcome State Fault Refusal :=
  .next (stepOfferSeed s)

end Sys2Proof.Machine
end

