-- ==== Sys2Proof/Machine/Pins.lean ====
section
/-! DEFINITION. The meanings of the pin and lane commands: RESET_N (R20, R177, R178), lane ready (R82, R88, R89, R179), and
the transmitter (R80, R96). -/

namespace Sys2Proof.Machine

/-- Every block at its pin reset values. What the master holds presented is its own and stays (R178), and so are the
responses it has been given; no free value is used twice. -/
def pinReset (low : Bool) (s : State) : State :=
  { State.reset with
    pending := s.pending
    resetLow := low
    bus := s.bus
    freeReads := s.freeReads }

/-- PIN_RESET_ASSERT (R20, R177, R179). The internal steps of the event before it are made first, as before every outside
event; no rule says that RESET_N cuts them off (DESIGN CHOICE, notes/assumptions/2.md). -/
def execPinResetAssert (s : State) : Host.Outcome State Fault Refusal :=
  .next (pinReset true (settle s))

/-- PIN_RESET_RELEASE (R178). -/
def execPinResetRelease (s : State) : Host.Outcome State Fault Refusal :=
  .next (if s.resetLow then finish (pinReset false s) else s)

/-- What the transmit lane carries: no signal, the idle signal, or the frame in transmission (R80, R179). -/
inductive LaneSignal where
  | silent
  | idle
  | frame (f : Frame)
  deriving DecidableEq, Repr

/-- The transmit lane (R80, R179): no signal while RESET_N is asserted; from the release on an idle signal, whatever
LINK_ENABLE holds and through a soft reset, and the frame in transmission in its place. -/
def State.txLane (s : State) : LaneSignal :=
  if s.resetLow then .silent
  else
    match s.sched.tx with
    | some f => .frame f
    | none => .idle

/-- Lane ready becomes true (R82); it stays false while RESET_N is asserted (R179). -/
def laneRise (s : State) : State :=
  if s.resetLow then s else tryTrain (modLink (fun l => { l with laneReady := true }) s)

/-- Lane ready becomes false (R88, R89). -/
def laneFall (s : State) : State :=
  goDown (modLink (fun l => { l with laneReady := false }) s)

/-- LANE_READY_RISE (R82). -/
def execLaneReadyRise (s : State) : Host.Outcome State Fault Refusal :=
  .next (outside laneRise s)

/-- LANE_READY_FALL (R88, R89). -/
def execLaneReadyFall (s : State) : Host.Outcome State Fault Refusal :=
  .next (outside laneFall s)

/-- TRANSMISSION_BEGIN (R96 to R99). -/
def execTransmissionBegin (s : State) : Host.Outcome State Fault Refusal :=
  .next (stepTransmit s)

/-- TRANSMISSION_END (R80). -/
def execTransmissionEnd (s : State) : Host.Outcome State Fault Refusal :=
  .next (outside endFrame s)

end Sys2Proof.Machine
end

