-- ==== Sys2Proof/Machine/Timers.lean ====
section
/-! DEFINITION. The timebase and the timers (R172): ticks, and the expiry of each timer under the rule that owns it. An
expiry is due when its timer has counted down to zero. -/

namespace Sys2Proof.Machine

/-- Expiry of the hold timer (R16). -/
def expireHold (s : State) : State :=
  if s.acc.holdTimer = some 0 then holdExpired s else s

/-- Expiry of the hello timer in TRAINING (R82): a HELLO becomes due and the timer restarts. -/
def expireHello (s : State) : State :=
  if s.link.helloTimer = some 0 then
    modLink (fun l => { l with helloDue := true, helloTimer := some s.settings.helloInterval }) s
  else s

/-- Expiry of the silence timer in UP (R86, R88). -/
def expireSilence (s : State) : State :=
  if s.link.silenceTimer = some 0 then dropLink s else s

/-- Expiry of the keepalive timer in UP (R87): a KEEPALIVE becomes due. -/
def expireKeepalive (s : State) : State :=
  if s.link.keepaliveTimer = some 0 then
    modLink (fun l => { l with keepaliveDue := true, keepaliveTimer := none }) s
  else s

/-- Expiry of the retransmit timer of window `i` (R107). -/
def expireRetx (i : WinIdx) (s : State) : State :=
  match s.source? i with
  | some c => if c.retxTimer = some 0 then retxExpired i c s else s
  | none => s

/-- Expiry of the control timer of window `i` (R105). -/
def expireControl (i : WinIdx) (s : State) : State :=
  match s.source? i with
  | some c => if c.ctlTimer = some 0 then ctlExpired i c s else s
  | none => s

/-- Expiry of the ack timer of window `i` (R136). -/
def expireAck (i : WinIdx) (s : State) : State :=
  match s.sink? i with
  | some c => if c.ackTimer = some 0 then ackExpired i c s else s
  | none => s

/-- An event at the stream an identifier names; none where no enabled entry carries it. -/
def atStream (id : StreamId) (event : WinIdx → State → State) (s : State) : State :=
  match s.lookup id with
  | some i => event i s
  | none => s

/-! ### Ticks -/

/-- An expiry still due when the next tick ends is taken before it, with its internal steps (notes/assumptions/2.md). -/
def takeDue (due : Bool) (event : State → State) (s : State) : State :=
  if due then settle (finish (event s)) else s

/-- The expiries still due at window `i`. -/
def takeDueAt (s : State) (i : WinIdx) : State :=
  let s := takeDue ((s.source? i).any fun c => c.retxTimer == some 0) (expireRetx i) s
  let s := takeDue ((s.source? i).any fun c => c.ctlTimer == some 0) (expireControl i) s
  takeDue ((s.sink? i).any fun c => c.ackTimer == some 0) (expireAck i) s

/-- Every expiry still due. -/
def takeAllDue (s : State) : State :=
  let s := takeDue (s.acc.holdTimer == some 0) expireHold s
  let s := takeDue (s.link.helloTimer == some 0) expireHello s
  let s := takeDue (s.link.silenceTimer == some 0) expireSilence s
  let s := takeDue (s.link.keepaliveTimer == some 0) expireKeepalive s
  allWindows.foldl takeDueAt s

/-- The timers of window `i` count down by one tick. -/
def tickWindow (s : State) (i : WinIdx) : State :=
  match (s.entry i).role with
  | .off => s
  | .source c => s.setRole i (.source { c with retxTimer := tickTimer c.retxTimer, ctlTimer := tickTimer c.ctlTimer })
  | .sink c => s.setRole i (.sink { c with ackTimer := tickTimer c.ackTimer })

/-- A tick ends (R172): every running timer counts down, and the next tick takes the divisor as it stands. -/
def tickTimers (s : State) : State :=
  let s := { s with
    acc := { s.acc with holdTimer := tickTimer s.acc.holdTimer }
    link := { s.link with helloTimer := tickTimer s.link.helloTimer
                          silenceTimer := tickTimer s.link.silenceTimer
                          keepaliveTimer := tickTimer s.link.keepaliveTimer }
    tickLength := s.settings.tickDivisor }
  allWindows.foldl tickWindow s

/-! ### The commands -/

/-- TICK (R172); while RESET_N is asserted no tick ends (R178). -/
def execTick (s : State) : Host.Outcome State Fault Refusal :=
  .next (if s.resetLow then s else outside (fun s => tickTimers (takeAllDue s)) s)

/-- HOLD_TIMER_EXPIRY (R16). -/
def execHoldTimerExpiry (s : State) : Host.Outcome State Fault Refusal :=
  .next (outside expireHold s)

/-- HELLO_TIMER_EXPIRY (R82). -/
def execHelloTimerExpiry (s : State) : Host.Outcome State Fault Refusal :=
  .next (outside expireHello s)

/-- SILENCE_TIMER_EXPIRY (R86, R88). -/
def execSilenceTimerExpiry (s : State) : Host.Outcome State Fault Refusal :=
  .next (outside expireSilence s)

/-- KEEPALIVE_TIMER_EXPIRY (R87). -/
def execKeepaliveTimerExpiry (s : State) : Host.Outcome State Fault Refusal :=
  .next (outside expireKeepalive s)

/-- RETRANSMIT_TIMER_EXPIRY (R107). -/
def execRetransmitTimerExpiry (id : StreamId) (s : State) : Host.Outcome State Fault Refusal :=
  .next (outside (atStream id expireRetx) s)

/-- CONTROL_TIMER_EXPIRY (R105). -/
def execControlTimerExpiry (id : StreamId) (s : State) : Host.Outcome State Fault Refusal :=
  .next (outside (atStream id expireControl) s)

/-- ACK_TIMER_EXPIRY (R136). -/
def execAckTimerExpiry (id : StreamId) (s : State) : Host.Outcome State Fault Refusal :=
  .next (outside (atStream id expireAck) s)

end Sys2Proof.Machine
end

