-- ==== Sys2Proof/Machine/Dispatch.lean ====
section
/-! DEFINITION. The effect of each command on everything but the queue: one arm for each row of spec/opcode_table.json. -/

namespace Sys2Proof.Machine

/-- The effect of a command. -/
def exec (i : Instr) (s : State) : Host.Outcome State Fault Refusal :=
  match i with
  | .accessPresented a => Sys2Proof.Machine.execAccessPresented a s
  | .accessGrant => Sys2Proof.Machine.execAccessGrant s
  | .accessAnswer ans data => Sys2Proof.Machine.execAccessAnswer ans data s
  | .seedGrant => Sys2Proof.Machine.execSeedGrant s
  | .seedReadAnswer ans data => Sys2Proof.Machine.execSeedReadAnswer ans data s
  | .applyGrant => Sys2Proof.Machine.execApplyGrant s
  | .applyAnswer ans => Sys2Proof.Machine.execApplyAnswer ans s
  | .slotOfferHeldWrite => Sys2Proof.Machine.execSlotOfferHeldWrite s
  | .slotOfferSeed => Sys2Proof.Machine.execSlotOfferSeed s
  | .holdTimerExpiry => Sys2Proof.Machine.execHoldTimerExpiry s
  | .pinResetAssert => Sys2Proof.Machine.execPinResetAssert s
  | .pinResetRelease => Sys2Proof.Machine.execPinResetRelease s
  | .tick => Sys2Proof.Machine.execTick s
  | .laneReadyRise => Sys2Proof.Machine.execLaneReadyRise s
  | .laneReadyFall => Sys2Proof.Machine.execLaneReadyFall s
  | .frameError delivered => Sys2Proof.Machine.execFrameError delivered s
  | .helloFrame version heard => Sys2Proof.Machine.execHelloFrame version heard s
  | .keepaliveFrame => Sys2Proof.Machine.execKeepaliveFrame s
  | .openFrame id epoch length reason => Sys2Proof.Machine.execOpenFrame id epoch length reason s
  | .openAcceptFrame id epoch => Sys2Proof.Machine.execOpenAcceptFrame id epoch s
  | .openRefuseFrame id epoch reason => Sys2Proof.Machine.execOpenRefuseFrame id epoch reason s
  | .reopenFrame id epoch oldest next => Sys2Proof.Machine.execReopenFrame id epoch oldest next s
  | .reopenReplyFrame id epoch verdict expected => Sys2Proof.Machine.execReopenReplyFrame id epoch verdict expected s
  | .closeFrameAtSource id epoch reason => Sys2Proof.Machine.execCloseFrameAtSource id epoch reason s
  | .closeFrameAtSink id epoch reason => Sys2Proof.Machine.execCloseFrameAtSink id epoch reason s
  | .closeAckFrame id epoch => Sys2Proof.Machine.execCloseAckFrame id epoch s
  | .promotedFrame id epoch lastApplied discarded => Sys2Proof.Machine.execPromotedFrame id epoch lastApplied discarded s
  | .recordFrame id epoch r => Sys2Proof.Machine.execRecordFrame id epoch r s
  | .ackFrame id epoch seq => Sys2Proof.Machine.execAckFrame id epoch seq s
  | .nakFrame id epoch seq => Sys2Proof.Machine.execNakFrame id epoch seq s
  | .helloTimerExpiry => Sys2Proof.Machine.execHelloTimerExpiry s
  | .silenceTimerExpiry => Sys2Proof.Machine.execSilenceTimerExpiry s
  | .keepaliveTimerExpiry => Sys2Proof.Machine.execKeepaliveTimerExpiry s
  | .retransmitTimerExpiry id => Sys2Proof.Machine.execRetransmitTimerExpiry id s
  | .controlTimerExpiry id => Sys2Proof.Machine.execControlTimerExpiry id s
  | .ackTimerExpiry id => Sys2Proof.Machine.execAckTimerExpiry id s
  | .transmissionBegin => Sys2Proof.Machine.execTransmissionBegin s
  | .transmissionEnd => Sys2Proof.Machine.execTransmissionEnd s
  | .readItem item clocked => Sys2Proof.Machine.execReadItem item clocked s
  | .streamStatusRead id clocked => Sys2Proof.Machine.execStreamStatusRead id clocked s
  | .writeItem item value clocked => Sys2Proof.Machine.execWriteItem item value clocked s
  | .windowEntryWrite index item value clocked => Sys2Proof.Machine.execWindowEntryWrite index item value clocked s
  | .eventMaskWrite value clocked => Sys2Proof.Machine.execEventMaskWrite value clocked s
  | .linkEnableWrite value clocked => Sys2Proof.Machine.execLinkEnableWrite value clocked s
  | .journalLowWrite value clocked => Sys2Proof.Machine.execJournalLowWrite value clocked s
  | .ackEveryWrite value clocked => Sys2Proof.Machine.execAckEveryWrite value clocked s
  | .tickDivisorWrite value clocked => Sys2Proof.Machine.execTickDivisorWrite value clocked s
  | .openOperation id argument clocked => Sys2Proof.Machine.execOpenOperation id argument clocked s
  | .closeOperation id argument clocked => Sys2Proof.Machine.execCloseOperation id argument clocked s
  | .sinkCloseOperation id argument clocked => Sys2Proof.Machine.execSinkCloseOperation id argument clocked s
  | .reseedOperation id argument clocked => Sys2Proof.Machine.execReseedOperation id argument clocked s
  | .fenceOperation id tag clocked => Sys2Proof.Machine.execFenceOperation id tag clocked s
  | .promoteOperation id argument clocked => Sys2Proof.Machine.execPromoteOperation id argument clocked s
  | .ackEvents causes clocked => Sys2Proof.Machine.execAckEvents causes clocked s
  | .linkRestart clocked => Sys2Proof.Machine.execLinkRestart clocked s
  | .deviceReset clocked => Sys2Proof.Machine.execDeviceReset clocked s
  | .softReset => Sys2Proof.Machine.execSoftReset s
  | .badCommand command later => Sys2Proof.Machine.execBadCommand command later s

end Sys2Proof.Machine
end

