-- ==== Sys2Proof/Safety.lean ====
section
/-! DEFINITION. What the claims about the part are said in: a part that stands between two events, causes seen by
management, and the conditions that every step is to keep. -/

namespace Sys2Proof.Machine

/-! ### Between two events -/

/-- The access unit rests in IDLE. -/
def idleAccess : AccessUnit :=
  { phase := .idle, resv := none, holdTimer := none }

/-- The IDLE apply engine finds nothing to choose (R131). -/
def State.applyRests (s : State) : Bool :=
  s.apply.phase != .idle || (nextServed s.apply.last fun id => (s.applyHead id).isSome).isNone

/-- RESET_N is high and every block has done what its last event calls for: no offer or grant is due, no release waits
to be offered, the IDLE access unit and the IDLE seed engine have nothing to take and the IDLE apply engine nothing to
choose, and the conditions are as last judged. -/
def State.still (s : State) : Bool :=
  !s.resetLow && !s.midEvent && !s.offers.held && !s.offers.seed
    && (s.acc.phase != .idle || s.bus.presented.isNone) && (s.seed.phase != .idle || s.seed.queue.isEmpty)
    && s.applyRests && s.ev.cond == s.conditions

/-- The part stands between two events: still, with no transmission due to begin. -/
def State.calm (s : State) : Bool :=
  s.still && s.choiceDue.isNone

/-- Between two events, with no soft reset due at the management port. -/
def State.quiet (s : State) : Bool :=
  s.calm && !s.port.resetDue

/-- The expiry of some timer is due (R172). -/
def State.expiryDue (s : State) : Bool :=
  s.acc.holdTimer == some 0 || s.link.helloTimer == some 0 || s.link.silenceTimer == some 0
    || s.link.keepaliveTimer == some 0
    || allWindows.any fun i =>
      ((s.source? i).any fun c => c.retxTimer == some 0 || c.ctlTimer == some 0)
        || (s.sink? i).any fun c => c.ackTimer == some 0

/-- The conditions the event unit has seen are those of the three condition causes (R154, R157). -/
def EventUnit.seesConditions (e : EventUnit) : Bool :=
  e.cond &&& ~~~ (Cause.linkDown.bit ||| Cause.journalLow.bit ||| Cause.holding.bit) == 0#13

/-- The memory arbiter has granted nothing yet of an event in which `r` is to be granted next, and no offer is due: what a
grant finds (R17, R47). -/
def State.readyToGrant (s : State) (r : Requester) : Bool :=
  !s.resetLow && !s.heldOfferDue && !s.seedOfferDue && s.grantDue == some r
    && (s.acc.phase != .idle || s.bus.presented.isNone) && s.ev.seesConditions

/-! ### Commands that are frames -/

/-- The command that delivers a frame (R93, R94). -/
def frameCommand : Frame → Instr
  | .hello v h => .helloFrame v h
  | .keepalive => .keepaliveFrame
  | .stream id epoch b =>
      match b with
      | .openReq len r => .openFrame id epoch len r
      | .openAccept => .openAcceptFrame id epoch
      | .openRefuse r => .openRefuseFrame id epoch r
      | .reopen o n => .reopenFrame id epoch o n
      | .reopenReply v e => .reopenReplyFrame id epoch v e
      | .close r => .closeFrameAtSource id epoch r
      | .closeAck => .closeAckFrame id epoch
      | .promoted l d => .promotedFrame id epoch l d
      | .record r => .recordFrame id epoch r
      | .ack q => .ackFrame id epoch q
      | .nak q => .nakFrame id epoch q

/-- A valid frame has been taken in UP: it is counted, and the silence timer restarts (R86, R95). -/
def State.tookFrame (s : State) : State :=
  { s with link := { s.link with
      silenceTimer := some s.settings.silenceLimit
      counters := { s.link.counters with framesReceived := s.link.counters.framesReceived + 1#32 } } }

/-- A frame taken in UP has been discarded as stale (R94, R95). -/
def State.tookStale (s : State) : State :=
  { s with link := { s.link with
      silenceTimer := some s.settings.silenceLimit
      counters := { s.link.counters with
        framesReceived := s.link.counters.framesReceived + 1#32
        staleFrames := s.link.counters.staleFrames + 1#32 } } }

/-- The replies and CLOSEs that a source context takes when they are of its epoch, by its state (the table of R102, and
R149 for PROMOTED). -/
def SrcState.takes : SrcState → Body → Bool
  | .opening, .openAccept | .opening, .openRefuse _ | .opening, .close _ => true
  | .seeding, .ack _ | .seeding, .nak _ | .seeding, .close _ | .seeding, .promoted _ _ => true
  | .live, .ack _ | .live, .nak _ | .live, .close _ | .live, .promoted _ _ => true
  | .resuming, .reopenReply _ _ | .resuming, .close _ | .resuming, .promoted _ _ => true
  | .closing, .closeAck | .closing, .close _ | .closing, .promoted _ _ => true
  | _, _ => false

/-! ### Chunk reads -/

/-- A journal queue once the 64 bytes of the chunk read that begins at `first` have been divided, 16 to each, among its
FILLING records, which are READY then (R69). -/
def chunkStored (first : Seq) (data : BitVec 512) (q : List Record) : List Record :=
  q.map fun r =>
    let k := (r.seq - first).toNat
    if r.status = .filling ∧ k < 4 then
      { r with status := .ready, data := some (((bytesOf 64 data).drop (16 * k)).take 16) }
    else r

/-! ### Commands that change the configuration -/

/-- A transaction at the management port, the soft reset that ends one, or an edge of RESET_N. -/
def configures : Instr → Bool
  | .readItem _ _ | .streamStatusRead _ _ | .writeItem _ _ _ | .windowEntryWrite _ _ _ _ | .eventMaskWrite _ _
  | .linkEnableWrite _ _ | .journalLowWrite _ _ | .ackEveryWrite _ _ | .tickDivisorWrite _ _ | .openOperation _ _ _
  | .closeOperation _ _ _ | .sinkCloseOperation _ _ _ | .reseedOperation _ _ _ | .fenceOperation _ _ _
  | .promoteOperation _ _ _ | .ackEvents _ _ | .linkRestart _ | .deviceReset _ | .softReset | .badCommand _ _
  | .pinResetAssert | .pinResetRelease => true
  | _ => false

/-- The command is a frame, a timer's expiry or an operation of the stream `id`. -/
def concerns (id : StreamId) : Instr → Bool
  | .openFrame x _ _ _ | .openAcceptFrame x _ | .openRefuseFrame x _ _ | .reopenFrame x _ _ _
  | .reopenReplyFrame x _ _ _ | .closeFrameAtSource x _ _ | .closeFrameAtSink x _ _ | .closeAckFrame x _
  | .promotedFrame x _ _ _ | .recordFrame x _ _ | .ackFrame x _ _ | .nakFrame x _ _ | .retransmitTimerExpiry x
  | .controlTimerExpiry x | .ackTimerExpiry x => x == id
  | .openOperation x _ _ | .closeOperation x _ _ | .sinkCloseOperation x _ _ | .reseedOperation x _ _
  | .fenceOperation x _ _ | .promoteOperation x _ _ => x == id.setWidth 8
  | _ => false

/-! ### What management sees -/

/-- The pending latch of a cause is set. -/
def State.caused (s : State) (c : Cause) : Bool :=
  s.ev.pending &&& c.bit != 0#13

/-- A stream is a member of the notice set. -/
def State.noticed (s : State) (id : StreamId) : Bool :=
  s.ev.notice &&& (1#16 <<< id.toNat) != 0#16

/-- The port after a whole transaction that executed, with `clocked` bytes complete. -/
def donePort (resultAt clocked : Nat) (data : List Byte) (r : Result) : Port :=
  { txn := none, resetDue := false, result := some r, sdo := sdoBytes resultAt clocked data r }

/-- The port after a transaction that ended before its execution point. -/
def earlyPort (clocked : Nat) : Port :=
  { txn := none, resetDue := false, result := none, sdo := List.replicate clocked 0#8 }

/-! ### Conditions that every step is to keep -/

/-- Every setting lies in its range, and SILENCE_LIMIT is greater than KEEPALIVE_INTERVAL (section 10.3, R173). -/
def Settings.valid (x : Settings) : Bool :=
  (settingList.all fun k => k.range.1 ≤ x.get k && x.get k ≤ k.range.2) && x.keepaliveInterval < x.silenceLimit

/-- The arbiter ranks each of the three requesters once (R17). -/
def Arbiter.ranks (a : Arbiter) : Bool :=
  a.order.isPerm [.access, .seed, .apply]

/-- The fields of an entry lie in the ranges of R22. -/
def Entry.valid (e : Entry) : Bool :=
  e.base.toNat % 64 == 0 && e.length.toNat % 64 == 0 && 64 ≤ e.length.toNat && e.length.toNat ≤ 16777216
    && rangeFits e.base e.length && 4 ≤ e.quota && e.quota ≤ 256

/-- Every entry is valid, enabled windows do not overlap, and no two of them carry the same STREAM (R26). -/
def State.windowsValid (s : State) : Bool :=
  (allWindows.all fun i => (s.entry i).valid)
    && allWindows.all fun i => allWindows.all fun j =>
      i == j || !(s.entry i).enabled || !(s.entry j).enabled || !(s.entry i).clashes (s.entry j)

/-- Every control slot and every acknowledgement flag is empty (R88). -/
def Sched.allEmpty (x : Sched) : Bool :=
  (x.ctl.toList.all Option.isNone) && x.ack.toList.all Option.isNone

/-- Window `i` is a SOURCE window whose context is in a state that keeps a journal: SEEDING, LIVE, SUSPENDED or
RESUMING. -/
def State.mirrors (s : State) (i : WinIdx) : Bool :=
  (s.source? i).any fun c => c.state.journals

/-- An access that waits is well formed; a held write, and a reservation of the access unit, belong to a write and a stream
that keeps a journal; the reservation is held in REQUESTING and is of the write's size (R2, R9, R13, R45). -/
def State.accessResvValid (s : State) : Bool :=
  match s.acc.resv, s.acc.phase with
  | none, .waitSlots a i => a.formOk && a.isWrite && s.mirrors i
  | none, .requesting a => a.formOk
  | none, _ => true
  | some r, .requesting a => a.formOk && a.isWrite && r.slots == a.slots && s.mirrors r.win
  | some _, _ => false

/-- The seed engine's streams keep a journal, and so does the stream of a read that is not orphaned; its reservation is that
of a chunk in PORT_WAIT, 5 slots only for the last chunk of a window, or the fifth slot of the last chunk's read (R45, R63,
R67, R68, R75, R76). -/
def State.seedResvValid (s : State) : Bool :=
  let e := s.seed
  let ends (i : WinIdx) (n : Nat) : Bool := (s.source? i).any fun c => c.cursor + n == (s.entry i).length.toNat
  (e.queue.all s.mirrors) && (e.active.all s.mirrors)
    && (match e.resv with
      | none => e.flight.all fun f => !f.fifth
      | some r => s.mirrors r.win
          && ((e.phase == .portWait && e.active == some r.win && e.flight.isNone
                && (r.slots == 4 || r.slots == 5 && ends r.win 64))
            || (e.phase == .reading && r.slots == 1
                && e.flight.any fun f => f.win == r.win && f.fifth && !f.orphan && ends r.win 0)))
    && (e.flight.isNone || e.phase == .reading) && e.flight.all fun f => f.orphan || s.mirrors f.win

/-- Records and reservations lie within the journal's 256 slots, each stream's within its QUOTA, a stream that
keeps no journal has none, and every reservation stands for what its holder is to journal (R39, R44, R45, R55). -/
def State.journalValid (s : State) : Bool :=
  s.usedSlots ≤ Config.journalSlots
    && (allWindows.all fun i =>
      s.recordCount i + s.reservedCount i ≤ (s.entry i).quota
        && (s.mirrors i || s.recordCount i + s.reservedCount i == 0))
    && s.accessResvValid && s.seedResvValid

/-- The link's state, timers and due frames agree with each other and with LINK_ENABLE, lane ready and RESET_N (R81, R82,
R85, R87, R88): slots and flags are empty outside UP, and the link does not rest in DOWN while enabled and ready. -/
def State.linkValid (s : State) : Bool :=
  let l := s.link
  match l.state with
  | .down =>
      !(s.settings.linkEnable && l.laneReady) && l.helloTimer.isNone && l.silenceTimer.isNone
        && l.keepaliveTimer.isNone && !l.helloDue && !l.keepaliveDue && s.sched.allEmpty
  | .training =>
      s.settings.linkEnable && l.laneReady && !s.resetLow && l.helloTimer.isSome && l.silenceTimer.isNone
        && l.keepaliveTimer.isNone && !l.keepaliveDue && s.sched.allEmpty
  | .up =>
      s.settings.linkEnable && l.laneReady && !s.resetLow && l.helloTimer.isNone && !l.helloDue
        && l.silenceTimer.isSome && (l.keepaliveTimer.isSome || l.keepaliveDue)

end Sys2Proof.Machine
end

