-- ==== Sys2Proof/WellFormed.lean ====
section
/-! DEFINITION. When a command is what its row names: a typed frame has fields the format allows, FRAME_ERROR carries bytes
the receive checker discards, an item with a row of its own is not read or written through the general row, and
BAD_COMMAND has a command byte that names none of the six codes. `exec` gives a meaning to the others too. -/

namespace Sys2Proof

/-- The receive checker discards these bytes (R93). -/
def badDelivery (bs : List Byte) : Bool :=
  match receiveCheck bs with
  | .valid _ => false
  | _ => true

/-- Reading the item is STREAM_STATUS_READ (R162). -/
def isStatusItem (item : BitVec 16) : Bool :=
  match Machine.itemOf item with
  | some (.stream _ 0) => true
  | _ => false

/-- Writing the item has a row of its own. -/
def hasWriteRow (item : BitVec 16) : Bool :=
  match Machine.itemOf item with
  | some (.entry _ _) => true
  | some .eventMask => true
  | some (.setting .linkEnable) => true
  | some (.setting .journalLow) => true
  | some (.setting .ackEvery) => true
  | some (.setting .tickDivisor) => true
  | _ => false

/-- The byte names one of the six transactions (section 10.1). -/
def isCommand (command : Byte) : Bool :=
  command == 0x31#8 || command == 0x32#8 || command == 0x33#8 || command == 0x34#8 || command == 0x35#8
    || command == 0x3C#8

/-- The command is what its row names. -/
def Instr.wellFormed : Instr → Bool
  | .frameError delivered => badDelivery delivered
  | .promotedFrame _ _ _ discarded => discarded.toNat ≤ 4
  | .recordFrame _ _ r => r.formatOk
  | .readItem item _ => !isStatusItem item
  | .writeItem item _ _ => !hasWriteRow item
  | .badCommand command _ => !isCommand command
  | _ => true

end Sys2Proof
end

