-- ==== Sys2Proof/Certificates/Slice0/Obligations.lean ====
section
/-! DEFINITION. The statements for the provers. Each says what the part does under the rules its entry of
OBLIGATIONS.json names; `still`, `calm` and `quiet` (Safety.lean) say that the part stands between two events. -/

open Sys2Proof Sys2Proof.Machine

/-! ### The machine, reset and the event unit -/

/-- A step runs the command at the front of the queue on the queue's rest; on an empty queue the part idles
(the model's choice, notes/assumptions/1.md). -/
def Obligations.StepRunsFrontCommand : Prop :=
  (∀ (c : Instr) (rest : List Instr) (s : State),
      step { s with pending := c :: rest } = exec c { s with pending := rest })
    ∧ ∀ s : State, s.pending = [] → step s = .next s

/-- Every command of the table leaves a next state, in every state, and leaves the queue alone. -/
def Obligations.EveryCommandAnswersAndKeepsQueue : Prop :=
  ∀ (c : Instr) (s : State), ∃ t, exec c s = .next t ∧ t.pending = s.pending

/-- A command that is no management transaction, soft reset or edge of RESET_N leaves the settings, the masks, the
management port and the configuration of every window as they are, and only TICK gives the tick another length. -/
def Obligations.ConfigurationFrame : Prop :=
  ∀ (c : Instr) (s t : State), configures c = false → exec c s = .next t →
    t.settings = s.settings ∧ t.ev.unmasked = s.ev.unmasked ∧ t.port = s.port ∧ t.resetLow = s.resetLow
    ∧ (c ≠ .tick → t.tickLength = s.tickLength)
    ∧ ∀ i : WinIdx, (t.entry i).base = (s.entry i).base ∧ (t.entry i).length = (s.entry i).length
      ∧ (t.entry i).stream = (s.entry i).stream ∧ (t.entry i).policy = (s.entry i).policy
      ∧ (t.entry i).quota = (s.entry i).quota ∧ (t.entry i).readGuard = (s.entry i).readGuard
      ∧ (t.entry i).yieldOn = (s.entry i).yieldOn ∧ (t.entry i).enabled = (s.entry i).enabled

/-- A frame, a timer's expiry or an operation of one stream leaves every other window, the slots, flags and notices of
every other stream, the bus, the arbiter, the frame in transmission and the link but its counters and its silence timer
as they are, in any state of the link but TRAINING. -/
def Obligations.StreamEventsTouchOneStream : Prop :=
  ∀ (c : Instr) (id : StreamId) (s t : State), concerns id c = true → s.quiet = true → s.link.state ≠ .training →
    exec c s = .next t →
    (∀ j, s.lookup id ≠ some j → t.entry j = s.entry j)
    ∧ (∀ x, x ≠ id → t.ctlSlot x = s.ctlSlot x ∧ t.ackFlag x = s.ackFlag x ∧ t.noticed x = s.noticed x)
    ∧ t.bus = s.bus ∧ t.arb = s.arb ∧ t.sched = { s.sched with ctl := t.sched.ctl, ack := t.sched.ack }
    ∧ t.link = { s.link with counters := t.link.counters, silenceTimer := t.link.silenceTimer }
    ∧ t.settings = s.settings ∧ t.ev.unmasked = s.ev.unmasked ∧ t.tickLength = s.tickLength

/-- The journal at pin reset (R60). -/
def Obligations.ResetJournal : Prop :=
  State.reset.freeCount = 256 ∧ State.reset.acc.resv = none ∧ State.reset.seed.resv = none
    ∧ (∀ i : WinIdx, State.reset.recordCount i = 0 ∧ State.reset.reservedCount i = 0 ∧ State.reset.source? i = none)
    ∧ State.reset.isHeld = false ∧ State.reset.seedWaits = false ∧ State.reset.settings.journalLow = 32
    ∧ State.reset.conditions &&& Cause.journalLow.bit = 0#13 ∧ State.reset.ev.cond &&& Cause.journalLow.bit = 0#13

/-- RESET_N: its assertion puts every block at its reset values, once the internal steps of the event before it are made
(the model's choice, notes/assumptions/2.md), and takes the signal off the transmit lane; its release starts from them,
takes the access that the master holds presented, and puts the idle signal on the lane. The responses the master has been
given are its own and stay (the model's choice, notes/assumptions/4.md). The reset values are those the rules give the
window table, the access unit, the arbiter, the link with its timers and its scheduler, the engines, the event unit, the
port, the settings and the tick. -/
def Obligations.PinReset : Prop :=
  ((∀ i : WinIdx, State.reset.entry i =
        { role := .off, base := 0#32, length := 64#32, stream := BitVec.ofNat 4 i.val, policy := .hold, quota := 64,
          readGuard := false, yieldOn := false, promotion := none })
      ∧ State.reset.acc = idleAccess ∧ State.reset.arb = { order := [.access, .seed, .apply], op := none }
      ∧ State.reset.link =
        { state := .down, heard := false, helloTimer := none, silenceTimer := none, keepaliveTimer := none,
          helloDue := false, keepaliveDue := false, laneReady := false, counters := zeroCounters }
      ∧ State.reset.sched.allEmpty = true ∧ State.reset.sched.lastCtl = 15#4 ∧ State.reset.sched.lastAck = 15#4
      ∧ State.reset.sched.lastRec = 15#4 ∧ State.reset.sched.tx = none
      ∧ State.reset.seed = { phase := .idle, active := none, chunkCount := 0, resv := none, flight := none, queue := [] }
      ∧ State.reset.apply = { phase := .idle, served := none, last := 15#4 }
      ∧ State.reset.ev = { pending := 0#13, ackMem := 0#13, unmasked := 0#13, cond := 0#13, notice := 0#16 }
      ∧ State.reset.port.txn = none ∧ State.reset.port.resetDue = false ∧ State.reset.settings.valid = true
      ∧ State.reset.settings =
        { tickDivisor := 25, holdLimit := 1000, retxTimeout := 200, retxLimit := 8, controlTimeout := 1000,
          ackEvery := 8, ackDelay := 20, helloInterval := 100, keepaliveInterval := 100, silenceLimit := 500,
          journalLow := 32, linkEnable := false }
      ∧ State.reset.tickLength = 25)
    ∧ (∀ s u : State, settle s = u → exec .pinResetAssert s = .next { State.reset with
        pending := u.pending, resetLow := true, bus := u.bus, freeReads := u.freeReads })
    ∧ (∀ s : State, s.calm = true → exec .pinResetAssert s = .next { State.reset with
        pending := s.pending, resetLow := true, bus := s.bus, freeReads := s.freeReads })
    ∧ (∀ s t : State, exec .pinResetAssert s = .next t → t.txLane = .silent ∧ t.link.laneReady = false)
    ∧ (∀ s : State, s.resetLow = true → s.bus.presented = none → exec .pinResetRelease s =
        .next { State.reset with pending := s.pending, bus := s.bus, freeReads := s.freeReads })
    ∧ (∀ (s : State) (a : Access), s.resetLow = true → s.bus.presented = some a → a.formOk = true →
        exec .pinResetRelease s = .next { State.reset with
          pending := s.pending, bus := { s.bus with presented := none }
          acc := { idleAccess with phase := .requesting a }, freeReads := s.freeReads })
    ∧ ∀ s t : State, s.resetLow = true → exec .pinResetRelease s = .next t → t.txLane = .idle

/-- A pulse cause: raising sets its latch, an acknowledge clears it, an acknowledge of a clear latch changes nothing, and
a raising after an acknowledge sets it again (R155). -/
def Obligations.PulseLatch : Prop :=
  ∀ (e : EventUnit) (c : Cause), e.cond &&& c.bit = 0#13 →
    (e.raise c).pending = e.pending ||| c.bit
    ∧ (e.pending &&& c.bit = c.bit → e.raise c = e)
    ∧ (e.acknowledge c.bit).pending = e.pending &&& ~~~ c.bit
    ∧ (e.pending &&& c.bit = 0#13 → e.acknowledge c.bit = e)
    ∧ ((e.acknowledge c.bit).raise c).pending &&& c.bit = c.bit

/-- A condition cause, in every order of its acknowledges with the beginning and the end of its condition (R156). -/
def Obligations.ConditionLatch : Prop :=
  ∀ (e : EventUnit) (c : Cause) (now : BitVec 13),
    (e.cond &&& c.bit = 0#13 → now &&& c.bit = c.bit → e.pending &&& c.bit = 0#13 →
        (e.judge now).pending &&& c.bit = c.bit ∧ (e.judge now).ackMem &&& c.bit = 0#13)
    ∧ (e.cond &&& c.bit = 0#13 → now &&& c.bit = c.bit → e.pending &&& c.bit = c.bit →
          (e.judge now).pending &&& c.bit = c.bit ∧ (e.judge now).ackMem &&& c.bit = e.ackMem &&& c.bit)
    ∧ (e.pending &&& c.bit = 0#13 → e.acknowledge c.bit = e)
    ∧ (e.pending &&& c.bit = c.bit → e.cond &&& c.bit = 0#13 →
          (e.acknowledge c.bit).pending = e.pending &&& ~~~ c.bit ∧ (e.acknowledge c.bit).ackMem = e.ackMem)
    ∧ (e.pending &&& c.bit = c.bit → e.cond &&& c.bit = c.bit →
          (e.acknowledge c.bit).pending = e.pending ∧ (e.acknowledge c.bit).ackMem = e.ackMem ||| c.bit)
    ∧ (e.cond &&& c.bit = c.bit → now &&& c.bit = 0#13 → e.ackMem &&& c.bit = c.bit →
          (e.judge now).pending &&& c.bit = 0#13 ∧ (e.judge now).ackMem &&& c.bit = 0#13)
    ∧ (e.cond &&& c.bit = c.bit → now &&& c.bit = 0#13 → e.ackMem &&& c.bit = 0#13 →
          (e.judge now).pending &&& c.bit = e.pending &&& c.bit ∧ (e.judge now).ackMem &&& c.bit = 0#13)
    ∧ (e.cond &&& c.bit = now &&& c.bit →
          (e.judge now).pending &&& c.bit = e.pending &&& c.bit ∧ (e.judge now).ackMem &&& c.bit = e.ackMem &&& c.bit)

/-! ### Accesses -/

/-- An access that is not well formed is answered ERROR and nothing else happens (R2); a write to a SINK window, and a guarded
read of a copy that is not consistent, are refused at acceptance (R5, R6). -/
def Obligations.AccessRefusedAtAcceptance : Prop :=
  (∀ (s : State) (a : Access), s.calm = true → s.acc = idleAccess → a.formOk = false →
      exec (.accessPresented a) s =
      .next { s with bus := { presented := none, responses := { ok := false, data := [] } :: s.bus.responses } })
    ∧ ∀ (s : State) (a : Access) (i : WinIdx) (c : SinkCtx),
      s.calm = true → s.acc = idleAccess → a.formOk = true → s.decode a.addr = some i → s.sink? i = some c →
      (a.isWrite = true → exec (.accessPresented a) s = .next { s with
          bus := { presented := none, responses := { ok := false, data := [] } :: s.bus.responses }
          ev := s.ev.raise .writeRefused })
      ∧ (a.isWrite = false → (s.entry i).readGuard = true → c.consistent = false →
            exec (.accessPresented a) s = .next { s with
                bus := { presented := none, responses := { ok := false, data := [] } :: s.bus.responses }
                ev := s.ev.raise .readRefused })

/-- A well-formed access that is neither refused nor asks for slots goes to REQUESTING without a reservation (R7, R8). -/
def Obligations.UnjournaledAccessRequestsPort : Prop :=
  ∀ (s : State) (a : Access), s.calm = true → s.acc = idleAccess → a.formOk = true →
    ((s.decode a.addr).all fun i =>
        ((s.source? i).all fun c => !(a.isWrite && c.state.journals))
        && (s.sink? i).all fun c => !(a.isWrite || (s.entry i).guardsRead c)) = true →
    exec (.accessPresented a) s = .next { s with
        bus := { s.bus with presented := none }, acc := { idleAccess with phase := .requesting a } }

/-- The reservation test at acceptance: it passes and the slots are reserved; it fails and no records are needed; it
fails under HOLD and the write is held (R9, R13, R44). -/
def Obligations.WriteAsksForSlots : Prop :=
  ∀ (s : State) (a : Access) (i : WinIdx) (c : SourceCtx),
    s.calm = true → s.acc = idleAccess → a.formOk = true → a.isWrite = true → s.decode a.addr = some i →
    s.source? i = some c → c.state.journals = true →
    (s.reserveOk i a.slots = true → ∃ t, exec (.accessPresented a) s = .next t
      ∧ t = { s with bus := { s.bus with presented := none }, ev := t.ev,
                     acc := { phase := .requesting a, resv := some { win := i, slots := a.slots }, holdTimer := none } }
      ∧ t.usedSlots = s.usedSlots + a.slots)
    ∧ (s.reserveOk i a.slots = false → c.needsRecords (s.offsetIn i a) = false →
          exec (.accessPresented a) s = .next { s with
              bus := { s.bus with presented := none }, acc := { idleAccess with phase := .requesting a } })
    ∧ (s.reserveOk i a.slots = false → c.needsRecords (s.offsetIn i a) = true → (s.entry i).policy = .hold →
          ∃ t, exec (.accessPresented a) s = .next t
        ∧ t = { s with bus := { s.bus with presented := none }, ev := t.ev,
                       acc := { phase := .waitSlots a i, resv := none, holdTimer := some s.settings.holdLimit } }
        ∧ t.caused .holding = true)

/-- An overflow: a failed test under SPILL at acceptance, or the hold timer's expiry under HOLD, reseeds the write's
stream and leaves the write in REQUESTING without a reservation (R14, R16, R51, R113). -/
def Obligations.OverflowReseeds : Prop :=
  ∀ (s : State) (a : Access) (i : WinIdx) (c : SourceCtx), s.calm = true → s.source? i = some c →
    ∀ cmd : Instr,
    (cmd = .accessPresented a ∧ s.acc = idleAccess ∧ a.formOk = true ∧ a.isWrite = true ∧ s.decode a.addr = some i
      ∧ c.state.journals = true ∧ s.reserveOk i a.slots = false ∧ c.needsRecords (s.offsetIn i a) = true
      ∧ (s.entry i).policy = .spill
      ∨ cmd = .holdTimerExpiry ∧ s.acc.phase = .waitSlots a i ∧ s.acc.holdTimer = some 0) →
    ∃ t d, exec cmd s = .next t ∧ t.source? i = some d ∧ t.acc = { idleAccess with phase := .requesting a }
    ∧ d.queue = [] ∧ d.cursor = 0 ∧ d.fence = none ∧ d.reseeds = c.reseeds + 1#32
    ∧ d.openReason = some .reseed
    ∧ (s.link.state = .up → d.state = .opening ∧ d.epoch = c.epoch + 1#8 ∧ d.nextSeq = 0#16
        ∧ t.ctlSlot (s.entry i).stream = some { epoch := d.epoch, body := .openReq (s.entry i).length .reseed })
    ∧ (s.link.state ≠ .up → d.state = .pending ∧ d.epoch = c.epoch)
    ∧ t.caused .streamReseed = true ∧ t.noticed (s.entry i).stream = true ∧ ∀ j, j ≠ i → t.entry j = s.entry j

/-- A grant to an access that needs no records begins the access's own memory operation and returns the unit's reservation; a
write found at its grant to lie in a SINK window is refused there, and so is a read found there to lie in a guarded one whose
copy is not consistent; no operation is made. In every case ACCESS drops to the lowest place (R5, R6, R10, R17, R18). -/
def Obligations.AccessGrantWithoutRecords : Prop :=
  (∀ (s : State) (a : Access), s.readyToGrant .access = true → s.acc.phase = .requesting a →
      ((s.decode a.addr).all fun i =>
          ((s.source? i).all fun c => !(a.isWrite && c.needsRecords (s.offsetIn i a)))
          && (s.sink? i).all fun c => !(a.isWrite || (s.entry i).guardsRead c)) = true →
      ∃ t, exec .accessGrant s = .next t ∧ t.acc.phase = .granted a none ∧ t.acc.resv = none
    ∧ t.arb = { order := s.arb.order.filter (· ≠ .access) ++ [.access]
                op := some { requester := .access, addr := a.addr, isWrite := a.isWrite, len := a.size,
                             bytes := a.bytes } }
    ∧ t.windows = s.windows ∧ t.bus = s.bus ∧ t.link = s.link ∧ t.sched = s.sched)
    ∧ ∀ (s : State) (a : Access) (i : WinIdx) (c : SinkCtx),
      s.readyToGrant .access = true → s.bus.presented = none → s.acc.phase = .requesting a →
      s.decode a.addr = some i → s.sink? i = some c →
      (a.isWrite = true ∨ (s.entry i).readGuard = true ∧ c.consistent = false) →
      ∃ t, exec .accessGrant s = .next t ∧ t.acc = idleAccess
      ∧ t.arb = { order := s.arb.order.filter (· ≠ .access) ++ [.access], op := none }
      ∧ t.bus = { presented := none, responses := { ok := false, data := [] } :: s.bus.responses }
      ∧ (a.isWrite = true → t.caused .writeRefused = true) ∧ (a.isWrite = false → t.caused .readRefused = true)
      ∧ t.windows = s.windows ∧ t.link = s.link ∧ t.sched = s.sched

/-- The records of a journaled write: consecutive pieces of 16 bytes, READY and unsent, numbered from next seq, that
together carry the write's bytes (R42, R49). -/
def Obligations.WriteRecordsArePieces : Prop :=
  ∀ (id : StreamId) (q : Seq) (offset : Nat) (data : List Byte), data.length ≤ 64 →
    (writeRecords id q offset data).length = (data.length + 15) / 16
    ∧ (writeRecords id q offset data).flatMap (fun r => r.data.getD []) = data
    ∧ ∀ (j : Nat) (r : Record), (writeRecords id q offset data)[j]? = some r →
      r.seq = q + BitVec.ofNat 16 j ∧ r.stream = id ∧ r.offset = BitVec.ofNat 32 (offset + 16 * j)
      ∧ r.length = min 16 (data.length - 16 * j) ∧ r.kind = .write ∧ r.status = .ready ∧ r.sentBefore = false
      ∧ r.pos = (if data.length ≤ 16 then .whole else if j = 0 then .first
            else if data.length ≤ 16 * (j + 1) then .last else .middle)

/-- A journaled write at its grant, where no merge is made: its reservation becomes its records at the tail of the queue,
and its memory operation begins. No merge is made of a burst, into an empty queue, into a record that is no WHOLE WRITE, is
not READY or has been sent, and where the bytes leave a gap or would make a run of more than 16 bytes or of two blocks (R10,
R48, R49, R50). -/
def Obligations.AccessGrantJournals : Prop :=
  (∀ (a : Access) (c : SourceCtx) (offset : Nat), a.isWrite = true →
      (∀ (n : Nat) (r : Record), a.shape = .single n → c.queue.getLast? = some r →
          r.kind ≠ .write ∨ r.pos ≠ .whole ∨ r.status ≠ .ready ∨ r.sentBefore = true
        ∨ r.offset.toNat + r.length < offset ∨ offset + n < r.offset.toNat
        ∨ 16 < max (r.offset.toNat + r.length) (offset + n) - min r.offset.toNat offset
        ∨ min r.offset.toNat offset / 64 ≠ (max (r.offset.toNat + r.length) (offset + n) - 1) / 64) →
      c.mergeTail a offset = none)
    ∧ ∀ (s : State) (a : Access) (i : WinIdx) (c : SourceCtx),
    s.readyToGrant .access = true → s.acc.phase = .requesting a → a.formOk = true → a.isWrite = true →
    s.decode a.addr = some i → s.source? i = some c → c.needsRecords (s.offsetIn i a) = true →
    s.acc.resv = some { win := i, slots := a.slots } → c.mergeTail a (s.offsetIn i a) = none →
    ∃ t, exec .accessGrant s = .next t
    ∧ t.source? i = some { c with
        queue := c.queue ++ writeRecords (s.entry i).stream c.nextSeq (s.offsetIn i a) a.bytes
        nextSeq := c.nextSeq + BitVec.ofNat 16 a.slots }
    ∧ t.recordCount i = s.recordCount i + a.slots
    ∧ t.acc.phase = .granted a (some { win := i, epoch := c.epoch }) ∧ t.acc.resv = none
    ∧ t.arb = { order := s.arb.order.filter (· ≠ .access) ++ [.access]
                op := some { requester := .access, addr := a.addr, isWrite := true, len := a.size,
                             bytes := a.bytes } }
    ∧ (∀ j, j ≠ i → t.entry j = s.entry j) ∧ t.link = s.link ∧ t.sched = s.sched ∧ t.bus = s.bus

/-- A single write merges into an unsent WHOLE WRITE tail record that its bytes overlap or abut, within 16 bytes and one
block: the record takes the run, the newer bytes standing over the older, next seq stays, and the slot is returned
(R50). -/
def Obligations.AccessGrantMerges : Prop :=
  ∀ (s : State) (a : Access) (n : Nat) (i : WinIdx) (c : SourceCtx) (r : Record) (older : List Byte),
    s.readyToGrant .access = true → s.acc.phase = .requesting a → a.shape = .single n → a.formOk = true →
    a.isWrite = true → s.decode a.addr = some i → s.source? i = some c →
    c.needsRecords (s.offsetIn i a) = true → s.acc.resv = some { win := i, slots := 1 } →
    c.queue.getLast? = some r → r.kind = .write → r.pos = .whole → r.status = .ready → r.sentBefore = false →
    r.data = some older → older.length = r.length →
    s.offsetIn i a ≤ r.offset.toNat + r.length → r.offset.toNat ≤ s.offsetIn i a + n →
    max (r.offset.toNat + r.length) (s.offsetIn i a + n) - min r.offset.toNat (s.offsetIn i a) ≤ 16 →
    min r.offset.toNat (s.offsetIn i a) / 64 = (max (r.offset.toNat + r.length) (s.offsetIn i a + n) - 1) / 64 →
    ∃ t d r', exec .accessGrant s = .next t ∧ t.source? i = some d
    ∧ d = { c with queue := c.queue.dropLast ++ [r'], merges := c.merges + 1#32 }
    ∧ r' = { r with offset := r'.offset, length := r'.length, data := r'.data }
    ∧ r'.offset.toNat = min r.offset.toNat (s.offsetIn i a)
    ∧ r'.offset.toNat + r'.length = max (r.offset.toNat + r.length) (s.offsetIn i a + n)
    ∧ (∀ p, r'.offset.toNat ≤ p → p < r'.offset.toNat + r'.length →
          (r'.data.getD []).getD (p - r'.offset.toNat) 0#8 =
          if s.offsetIn i a ≤ p ∧ p < s.offsetIn i a + n then a.bytes.getD (p - s.offsetIn i a) 0#8
          else older.getD (p - r.offset.toNat) 0#8)
    ∧ t.acc.resv = none ∧ t.acc.phase = .granted a (some { win := i, epoch := c.epoch })
    ∧ ∀ j, j ≠ i → t.entry j = s.entry j

/-- The memory's answer to an access: OK gives the response OK with the data of a read, ERROR the response ERROR, and an
access that waits presented is taken in the same event, its own response, if it has one already, coming after. ERROR raises
MEMORY_ERROR, and a stream whose write was journaled in its present epoch goes to FAULT. An answer to an operation begun
before the last pin reset, of whatever requester, is ignored (R1, R3, R19, R20, R115, R178; that the command says so is the
model's choice, notes/assumptions/22.md). -/
def Obligations.AccessAnswered : Prop :=
  (∀ (s : State) (data : BitVec 512), s.calm = true →
      exec (.accessAnswer .late data) s = .next s ∧ exec (.seedReadAnswer .late data) s = .next s
    ∧ exec (.applyAnswer .late) s = .next s)
    ∧ ∀ (s : State) (a : Access) (j : Option Journaled) (op : MemOp) (data : BitVec 512),
    s.calm = true → s.acc.phase = .granted a j → s.arb.op = some op → op.requester = .access →
    (∀ ok : Bool, ∃ t rs, exec (.accessAnswer (if ok then .ok else .error) data) s = .next t
      ∧ t.bus = { presented := none
                  responses := rs ++ { ok := ok, data := if ok && !a.isWrite then bytesOf a.size data else [] }
                    :: s.bus.responses }
      ∧ rs.length ≤ 1 ∧ (s.bus.presented = none → rs = []))
    ∧ (s.bus.presented = none → ∃ t, exec (.accessAnswer .ok data) s = .next t
      ∧ t = { s with bus := t.bus, acc := idleAccess, arb := { order := s.arb.order, op := none }, ev := t.ev })
    ∧ (s.bus.presented = none → ∃ t, exec (.accessAnswer .error data) s = .next t ∧ t.acc = idleAccess
        ∧ t.bus = { presented := none, responses := { ok := false, data := [] } :: s.bus.responses }
        ∧ t.caused .memoryError = true
        ∧ (j = none → t.windows = s.windows)
        ∧ ∀ (i : WinIdx) (c : SourceCtx), s.source? i = some c → j = some { win := i, epoch := c.epoch } →
            c.state.journals = true →
            ∃ d, t.source? i = some d ∧ d.state = .fault ∧ d.faultReason = .memoryError ∧ d.diverged = true
          ∧ d.queue = [] ∧ d.epoch = c.epoch ∧ t.caused .streamFault = true
          ∧ t.noticed (s.entry i).stream = true ∧ ∀ k, k ≠ i → t.entry k = s.entry k)

/-! ### Seeding and the slot arbiter -/

/-- The grant of a chunk read: four FILLING records, the cursor and next seq advanced, and the read at BASE plus the cursor
(R68). A read that waits for the port, a write that waits with its reservation and one that still needs no records are
not affected. A cursor that passes a waiting write without a reservation brings it back to the reservation test: it waits
for the port again with its slots, or is held under HOLD, or its stream is reseeded under SPILL, the read just begun then
being orphaned (R9, R11, R13, R14, R75). -/
def Obligations.SeedGrant : Prop :=
  (∀ (s : State) (i : WinIdx) (c : SourceCtx) (r : Resv),
      s.readyToGrant .seed = true → s.seed.active = some i → s.seed.resv = some r → s.source? i = some c →
      (∀ a, s.acc.phase = .requesting a → a.isWrite = false ∨ s.acc.resv ≠ none ∨
        ∀ j, s.decode a.addr = some j → ∀ d, s.source? j = some d →
          SourceCtx.needsRecords { d with cursor := if j = i then d.cursor + 64 else d.cursor } (s.offsetIn j a) = false) →
      ∃ t, exec .seedGrant s = .next t
    ∧ t.source? i = some { c with
        queue := c.queue ++
        [seedRecord (s.entry i).stream c.nextSeq .first c.cursor,
         seedRecord (s.entry i).stream (c.nextSeq + 1#16) .middle (c.cursor + 16),
         seedRecord (s.entry i).stream (c.nextSeq + 2#16) .middle (c.cursor + 32),
         seedRecord (s.entry i).stream (c.nextSeq + 3#16) .last (c.cursor + 48)]
        nextSeq := c.nextSeq + 4#16, cursor := c.cursor + 64 }
    ∧ t.seed = { phase := .reading, active := some i, chunkCount := min (s.seed.chunkCount + 1) 16,
                 resv := if r.slots = 5 then some { win := i, slots := 1 } else none,
                 flight := some { win := i, first := c.nextSeq, fifth := r.slots == 5, orphan := false },
                 queue := s.seed.queue }
    ∧ t.arb = { order := s.arb.order.filter (· ≠ .seed) ++ [.seed]
                op := some { requester := .seed, addr := (s.entry i).base + BitVec.ofNat 32 c.cursor,
                             isWrite := false, len := 64, bytes := [] } }
    ∧ t.acc = s.acc ∧ t.link = s.link ∧ t.sched = s.sched ∧ ∀ j, j ≠ i → t.entry j = s.entry j)
    ∧ ∀ (s : State) (i : WinIdx) (c : SourceCtx) (k : Nat) (a : Access),
      s.readyToGrant .seed = true → s.seed.active = some i → s.seed.resv = some { win := i, slots := k } →
      (k = 4 ∨ k = 5) → s.source? i = some c → c.state = .seeding → s.acc.phase = .requesting a → s.acc.resv = none →
      a.isWrite = true → s.decode a.addr = some i → s.offsetIn i a < c.cursor + 64 →
      (s.reserveOk i a.slots = true → ∃ t, exec .seedGrant s = .next t
        ∧ t.acc = { phase := .requesting a, resv := some { win := i, slots := a.slots }, holdTimer := none }
        ∧ t.seed.phase = .reading)
      ∧ (s.reserveOk i a.slots = false → (s.entry i).policy = .hold → ∃ t, exec .seedGrant s = .next t
        ∧ t.acc = { phase := .waitSlots a i, resv := none, holdTimer := some s.settings.holdLimit }
        ∧ t.seed.phase = .reading)
      ∧ (s.reserveOk i a.slots = false → (s.entry i).policy = .spill → ∃ t d, exec .seedGrant s = .next t
        ∧ t.source? i = some d ∧ t.acc = { idleAccess with phase := .requesting a }
        ∧ d.queue = [] ∧ d.cursor = 0 ∧ d.reseeds = c.reseeds + 1#32 ∧ d.openReason = some .reseed
        ∧ (s.link.state = .up → d.state = .opening ∧ d.epoch = c.epoch + 1#8)
        ∧ t.seed.phase = .reading ∧ t.seed.active = none ∧ t.seed.resv = none
        ∧ t.seed.flight = some { win := i, first := c.nextSeq, fifth := false, orphan := true }
        ∧ t.arb.op = some { requester := .seed, addr := (s.entry i).base + BitVec.ofNat 32 c.cursor,
                            isWrite := false, len := 64, bytes := [] }
        ∧ t.caused .streamReseed = true ∧ ∀ j, j ≠ i → t.entry j = s.entry j)

/-- A chunk's data on a walk that has not ended: the four records become READY with 16 bytes each. While the stream is the
active one, the engine begins its next chunk, or yields at the end of its quantum while others wait; where a suspension
has taken the stream from the engine, the engine becomes IDLE and takes the head of the queue (R66, R69, R71, R74). Where
a CONTINUE has freed the records, that the walk goes on all the same is the model's choice (notes/assumptions/21.md). -/
def Obligations.SeedAnswerFillsChunk : Prop :=
  ∀ (s : State) (f : Flight) (c : SourceCtx) (op : MemOp) (data : BitVec 512),
    s.calm = true → s.seed.flight = some f → f.orphan = false → s.arb.op = some op → op.requester = .seed →
    s.source? f.win = some c → c.cursor ≠ (s.entry f.win).length.toNat → s.seed.phase = .reading →
    ∃ t, exec (.seedReadAnswer .ok data) s = .next t
    ∧ t.source? f.win = some { c with queue := chunkStored f.first data c.queue }
    ∧ t.arb.op = none ∧ (∀ j, j ≠ f.win → t.entry j = s.entry j) ∧ t.link = s.link ∧ t.sched = s.sched
    ∧ (s.seed.active = some f.win →
          (s.seed.chunkCount < 16 ∨ s.seed.queue = [] →
              t.seed = if s.reserveOk f.win (chunkSlots (s.entry f.win) c) then
              { s.seed with phase := .portWait, flight := none,
                            resv := some { win := f.win, slots := chunkSlots (s.entry f.win) c } }
              else { s.seed with phase := .slotWait, flight := none })
        ∧ ∀ (n : WinIdx) (rest : List WinIdx), 16 ≤ s.seed.chunkCount → s.seed.queue = n :: rest →
          (s.source? n).isSome = true →
          t.seed.active = some n ∧ t.seed.queue = rest ++ [f.win] ∧ t.seed.chunkCount = 0)
    ∧ (s.seed.active = none →
          (s.seed.queue = [] → t.seed =
              { phase := .idle, active := none, chunkCount := 0, resv := none, flight := none, queue := [] })
        ∧ ∀ (n : WinIdx) (rest : List WinIdx), s.seed.queue = n :: rest → (s.source? n).isSome = true →
          t.seed.active = some n ∧ t.seed.queue = rest ∧ t.seed.chunkCount = 0 ∧ t.seed.flight = none)

/-- The data of the chunk that ends a walk: the chunk's records take it and keep their places, and SEED_END joins the tail,
from the fifth slot or, where none is held, from one that passes the reservation test, and the engine drops the stream;
where the test fails the engine goes to END_WAIT. The stream may have been suspended since the read began (R46, R69, R70,
R74). Where a CONTINUE has freed the records, that the walk ends all the same is the model's choice
(notes/assumptions/21.md). -/
def Obligations.SeedAnswerEndsWalk : Prop :=
  ∀ (s : State) (f : Flight) (c : SourceCtx) (op : MemOp) (data : BitVec 512),
    s.calm = true → s.seed.flight = some f → f.orphan = false → s.arb.op = some op →
    op.requester = .seed → s.source? f.win = some c → c.cursor = (s.entry f.win).length.toNat →
    (f.fifth = true ∨ s.reserveOk f.win 1 = true →
        ∃ t, exec (.seedReadAnswer .ok data) s = .next t
      ∧ t.source? f.win = some { c with
          queue := chunkStored f.first data c.queue ++
          [{ stream := (s.entry f.win).stream, seq := c.nextSeq, kind := .seedEnd, pos := .whole,
             offset := (s.entry f.win).length, length := 0, data := some [], tag := none, status := .ready,
             sentBefore := false }]
          nextSeq := c.nextSeq + 1#16 }
      ∧ t.arb.op = none ∧ (∀ j, j ≠ f.win → t.entry j = s.entry j)
      ∧ (s.seed.queue = [] →
            t.seed = { phase := .idle, active := none, chunkCount := 0, resv := none, flight := none, queue := [] }))
    ∧ (f.fifth = false → s.reserveOk f.win 1 = false →
          ∃ t, exec (.seedReadAnswer .ok data) s = .next t
        ∧ t.source? f.win = some { c with queue := chunkStored f.first data c.queue }
        ∧ t.seed = { s.seed with phase := .endWait, active := some f.win, resv := none, flight := none }
        ∧ t.arb.op = none ∧ t.acc = s.acc ∧ ∀ j, j ≠ f.win → t.entry j = s.entry j)

/-- The answer to an orphaned read is dropped, or raises MEMORY_ERROR only; an ERROR answer to a read whose records stand
faults their stream (R76, R77). Where a CONTINUE has freed the records, that the fault follows all the same is the model's
choice (notes/assumptions/21.md). -/
def Obligations.SeedAnswerOrphanedOrError : Prop :=
  ∀ (s : State) (f : Flight) (op : MemOp) (ok : Bool) (data : BitVec 512),
    s.calm = true → s.seed.flight = some f → s.arb.op = some op → op.requester = .seed →
    (f.orphan = true → ∃ t, exec (.seedReadAnswer (if ok then .ok else .error) data) s = .next t
      ∧ t.windows = s.windows ∧ t.arb.op = none ∧ t.seed.flight = none ∧ (s.seed.queue = [] → t.seed.phase = .idle)
      ∧ (ok = false → t.caused .memoryError = true) ∧ t.link = s.link ∧ t.sched = s.sched)
    ∧ ∀ c : SourceCtx, f.orphan = false → s.source? f.win = some c →
      ∃ t d, exec (.seedReadAnswer .error data) s = .next t ∧ t.source? f.win = some d ∧ d.state = .fault
      ∧ d.faultReason = .memoryError ∧ d.queue = [] ∧ d.diverged = true ∧ d.epoch = c.epoch
      ∧ t.caused .memoryError = true ∧ t.caused .streamFault = true
      ∧ t.noticed (s.entry f.win).stream = true ∧ t.seed.flight = none
      ∧ ∀ j, j ≠ f.win → t.entry j = s.entry j

/-- The slot arbiter's offers: each waiter takes its test again, the held write before the seed engine, which finds what the
write's offer leaves; a chunk in SLOT_WAIT goes to PORT_WAIT and a SEED_END in END_WAIT joins the tail, if the test passes
(R15, R46, R47, R67, R70). -/
def Obligations.SlotOffers : Prop :=
  (∀ (s : State) (a : Access) (i : WinIdx), s.resetLow = false → s.heldOfferDue = true → s.acc.phase = .waitSlots a i →
      ∃ t, exec .slotOfferHeldWrite s = .next t ∧ t.windows = s.windows
    ∧ t.acc = if s.reserveOk i a.slots then
      { phase := .requesting a, resv := some { win := i, slots := a.slots }, holdTimer := none }
      else s.acc)
    ∧ (∀ s u : State, s.heldOfferDue = true → exec .slotOfferHeldWrite s = .next u →
          exec .slotOfferSeed s = exec .slotOfferSeed u)
    ∧ ∀ (s : State) (i : WinIdx) (c : SourceCtx), s.resetLow = false → s.heldOfferDue = false → s.seedOfferDue = true →
      (s.acc.phase = .idle → s.bus.presented = none) → s.seed.active = some i → s.source? i = some c →
      (s.seed.phase = .slotWait → ∃ t, exec .slotOfferSeed s = .next t ∧ t.windows = s.windows ∧ t.acc = s.acc
        ∧ t.seed = if s.reserveOk i (chunkSlots (s.entry i) c) then
        { s.seed with phase := .portWait, resv := some { win := i, slots := chunkSlots (s.entry i) c } }
        else s.seed)
      ∧ (s.seed.phase = .endWait → s.seed.resv = none → s.seed.flight = none →
            ∃ t, exec .slotOfferSeed s = .next t ∧ t.acc = s.acc
          ∧ (s.reserveOk i 1 = false → t.windows = s.windows ∧ t.seed = s.seed)
          ∧ (s.reserveOk i 1 = true →
                t.windows = (s.setRole i (.source { c with
                  nextSeq := c.nextSeq + 1#16
                  queue := c.queue ++ [{ stream := (s.entry i).stream, seq := c.nextSeq, kind := .seedEnd, pos := .whole,
                                         offset := (s.entry i).length, length := 0, data := some [], tag := none,
                                         status := .ready, sentBefore := false }] })).windows
              ∧ (s.seed.queue = [] → t.seed =
                    { phase := .idle, active := none, chunkCount := 0, resv := none, flight := none, queue := [] })
              ∧ ∀ (n : WinIdx) (rest : List WinIdx), s.seed.queue = n :: rest → (s.source? n).isSome = true →
                t.seed.active = some n ∧ t.seed.queue = rest ∧ t.seed.chunkCount = 0))

/-! ### Applying -/

/-- The grant to APPLY: the head's records become under an operation, and their bytes are written at BASE plus the first
offset (R132). -/
def Obligations.ApplyGrant : Prop :=
  ∀ (s : State) (v : Served) (r : RecBody) (rest : List RecBody) (c : SinkCtx),
    s.readyToGrant .apply = true → s.apply.served = some v → v.recs = r :: rest → s.sink? v.win = some c →
    ∃ t d, exec .applyGrant s = .next t ∧ t.sink? v.win = some d ∧ d = { c with held := d.held }
    ∧ d.held = c.held.map (fun h => if h.body.seq ∈ v.recs.map (·.seq) then { h with underOp := true } else h)
    ∧ t.apply = { s.apply with phase := .writing }
    ∧ t.arb = { order := s.arb.order.filter (· ≠ .apply) ++ [.apply]
                op := some { requester := .apply, addr := (s.entry v.win).base + r.offset, isWrite := true,
                             len := ((r :: rest).flatMap (·.data)).length, bytes := (r :: rest).flatMap (·.data) } }
    ∧ t.link = s.link ∧ t.sched = s.sched ∧ ∀ j, j ≠ v.win → t.entry j = s.entry j

/-- An apply answered OK is completed while its context still holds the head: with nothing held next in turn; with a MARK or
SEED_END there, which is applied at once; and with a record that can head no group, which is discarded as stale with a NAK.
An unsent ACK is brought up to date, and an unsent NAK is left unless the count reaches ACK_EVERY; a SUSPENDED context
flags nothing. Answered ERROR it raises MEMORY_ERROR and closes such a context with reason APPLY_ERROR; with the context
gone, closed or re-paired nothing of it is changed (R130, R133, R134, R136, R142). -/
def Obligations.ApplyAnswered : Prop :=
  (∀ (s : State) (v : Served) (op : MemOp), s.calm = true → s.apply.served = some v → s.arb.op = some op →
      op.requester = .apply →
      (∀ c : SinkCtx, s.sink? v.win = some c → c.stillHolds v = true →
          (c.held.all fun h => v.recs.any (·.seq == h.body.seq) || h.body.seq != c.expected + BitVec.ofNat 16 v.recs.length)
          = true →
          ∃ t, exec (.applyAnswer .ok) s = .next t ∧ t.arb.op = none
        ∧ t.sink? v.win = some
          { c with
              held := c.held.filter fun h => v.recs.all fun r => h.body.seq ≠ r.seq
              expected := c.expected + BitVec.ofNat 16 v.recs.length
              applied := c.applied + BitVec.ofNat 32 v.recs.length
              nakOutstanding := false
              ackCount := if c.state = .seeding ∨ c.state = .live then
              min (c.ackCount + v.recs.length) s.settings.ackEvery else c.ackCount
              ackTimer := if (c.state = .seeding ∨ c.state = .live) ∧ c.ackCount = 0 then some s.settings.ackDelay
              else c.ackTimer }
        ∧ (∀ j, j ≠ v.win → t.entry j = s.entry j)
        ∧ (s.link.state = .up → (c.state = .seeding ∨ c.state = .live) → c.ackCount < s.settings.ackEvery →
              s.settings.ackEvery ≤ c.ackCount + v.recs.length → s.ackFlag (s.entry v.win).stream = none →
              t.ackFlag (s.entry v.win).stream = some
              { isNak := false, seq := c.expected + BitVec.ofNat 16 v.recs.length - 1#16, epoch := c.epoch })
        ∧ (∀ g : AckFlag, s.ackFlag (s.entry v.win).stream = some g → c.state = .seeding ∨ c.state = .live →
              (g.isNak = false → g.epoch = c.epoch → t.ackFlag (s.entry v.win).stream = some
                  { g with seq := c.expected + BitVec.ofNat 16 v.recs.length - 1#16 })
            ∧ (g.isNak = true →
                  (c.ackCount + v.recs.length < s.settings.ackEvery ∨ s.settings.ackEvery ≤ c.ackCount) →
                  t.ackFlag (s.entry v.win).stream = some g))
        ∧ (c.state = .suspended → t.sched = s.sched))
    ∧ (∀ c : SinkCtx, s.sink? v.win = some c → c.stillHolds v = true → (c.state = .seeding ∨ c.state = .live) →
          0 < v.recs.length → 0 < s.settings.ackEvery →
          ∀ e : Seq, e = c.expected + BitVec.ofNat 16 v.recs.length →
          ∀ (m : RecBody) (rest : List Held),
          (c.held.filter fun h => v.recs.all fun r => h.body.seq ≠ r.seq) = { body := m, underOp := false } :: rest →
          m.seq = e →
          (m.kind = .mark ∨ m.kind = .seedEnd → (rest.all fun h => h.body.seq ≠ e && h.body.seq ≠ e + 1#16) = true →
              ∃ t, exec (.applyAnswer .ok) s = .next t ∧ t.arb.op = none
            ∧ t.sink? v.win = some
              { c with
                  held := rest, expected := e + 1#16, applied := c.applied + BitVec.ofNat 32 (v.recs.length + 1)
                  nakOutstanding := false, ackCount := min (c.ackCount + v.recs.length + 1) s.settings.ackEvery
                  ackTimer := if c.ackCount = 0 then some s.settings.ackDelay else c.ackTimer
                  state := if m.kind = .seedEnd then .live else c.state }
            ∧ (s.link.state = .up → (s.ackFlag (s.entry v.win).stream).all (fun g => !g.isNak) = true →
                  t.ackFlag (s.entry v.win).stream = some { isNak := false, seq := e, epoch := c.epoch })
            ∧ (m.kind = .seedEnd → c.state = .seeding →
                  t.caused .streamLive = true ∧ t.noticed (s.entry v.win).stream = true)
            ∧ ∀ j, j ≠ v.win → t.entry j = s.entry j)
        ∧ (SinkCtx.head { c with held := { body := m, underOp := false } :: rest, expected := e } = .unusable →
              (rest.all fun h => h.body.seq ≠ e) = true →
              ∃ t, exec (.applyAnswer .ok) s = .next t ∧ t.arb.op = none
            ∧ t.sink? v.win = some
              { c with
                  held := rest, expected := e, applied := c.applied + BitVec.ofNat 32 v.recs.length
                  nakOutstanding := true, ackCount := min (c.ackCount + v.recs.length) s.settings.ackEvery
                  ackTimer := if c.ackCount = 0 then some s.settings.ackDelay else c.ackTimer }
            ∧ t.link = { s.link with counters := { s.link.counters with staleFrames := s.link.counters.staleFrames + 1#32 } }
            ∧ (s.link.state = .up → t.ackFlag (s.entry v.win).stream = some
                  { isNak := true, seq := e, epoch := c.epoch })
            ∧ ∀ j, j ≠ v.win → t.entry j = s.entry j))
    ∧ ((s.sink? v.win).all (fun c => !c.stillHolds v) = true →
          ∃ t, exec (.applyAnswer .ok) s = .next t ∧ t.windows = s.windows ∧ t.sched = s.sched ∧ t.arb.op = none))
    ∧ ∀ (s : State) (v : Served) (op : MemOp), s.calm = true → s.apply.served = some v → s.arb.op = some op →
      op.requester = .apply →
      (∀ c : SinkCtx, s.sink? v.win = some c → c.stillHolds v = true →
          ∃ t d, exec (.applyAnswer .error) s = .next t ∧ t.sink? v.win = some d
        ∧ d = { c with state := .closed, closeReason := .applyError, held := [], ackCount := 0, ackTimer := none,
                       nakOutstanding := false }
        ∧ t.caused .memoryError = true ∧ t.caused .streamClosed = true ∧ t.noticed (s.entry v.win).stream = true
        ∧ t.ackFlag (s.entry v.win).stream = none
        ∧ (s.link.state = .up → c.state ≠ .suspended →
              t.ctlSlot (s.entry v.win).stream = some { epoch := c.epoch, body := .close .applyError })
        ∧ ∀ j, j ≠ v.win → t.entry j = s.entry j)
      ∧ ((s.sink? v.win).all (fun c => !c.stillHolds v) = true →
            ∃ t, exec (.applyAnswer .error) s = .next t ∧ t.windows = s.windows ∧ t.sched = s.sched
          ∧ t.caused .memoryError = true)

/-! ### The lane, training and received frames -/

/-- Lane ready becoming true takes an enabled link from DOWN to TRAINING (R82). Lane ready becoming false takes the link from UP
to DOWN: timers stopped, slots and flags emptied, and every context acts by its state (R88, R111, R138); from TRAINING it
stops the exchange (R89). -/
def Obligations.LaneReady : Prop :=
  (∀ s : State, s.calm = true →
      (s.link.state = .down → s.settings.linkEnable = true → exec .laneReadyRise s = .next { s with
          link := { s.link with laneReady := true, state := .training, heard := false, helloDue := true,
                                helloTimer := some s.settings.helloInterval } })
    ∧ (s.link.state ≠ .down ∨ s.settings.linkEnable = false →
          exec .laneReadyRise s = .next { s with link := { s.link with laneReady := true } }))
    ∧ ∀ s : State, s.calm = true →
      (s.link.state = .up → ∃ t, exec .laneReadyFall s = .next t
        ∧ t.link = { s.link with
            state := .down, silenceTimer := none, keepaliveTimer := none, keepaliveDue := false, laneReady := false }
        ∧ t.sched = { s.sched with ctl := Vector.replicate 16 none, ack := Vector.replicate 16 none }
        ∧ (∀ (i : WinIdx) (c : SourceCtx), s.source? i = some c →
              (c.state = .seeding → t.source? i = some { c with
                  state := .suspended, prior := .seeding, retxTimer := none, queue := c.queue.map Record.toReady })
            ∧ (c.state = .live → t.source? i = some { c with
                state := .suspended, prior := .live, retxTimer := none, queue := c.queue.map Record.toReady })
            ∧ (c.state = .opening → t.source? i = some { c with state := .pending, ctlTimer := none, triesLeft := 0 })
            ∧ (c.state = .resuming → t.source? i = some { c with state := .suspended, ctlTimer := none, triesLeft := 0 })
            ∧ (c.state = .closing → ∃ d, t.source? i = some d ∧ d.state = .closed ∧ d.epoch = c.epoch ∧ d.queue = [])
            ∧ (c.state = .closed ∨ c.state = .pending ∨ c.state = .suspended ∨ c.state = .fault →
                  t.source? i = some c))
        ∧ ∀ (i : WinIdx) (c : SinkCtx), s.sink? i = some c →
            (c.state = .seeding → t.sink? i = some { c with
                state := .suspended, prior := .seeding, held := c.held.filter (·.underOp), ackCount := 0,
                ackTimer := none, nakOutstanding := false })
          ∧ (c.state = .live → t.sink? i = some { c with
              state := .suspended, prior := .live, held := c.held.filter (·.underOp), ackCount := 0,
              ackTimer := none, nakOutstanding := false })
          ∧ (c.state = .closed ∨ c.state = .suspended → t.sink? i = some c))
      ∧ (s.link.state = .training → exec .laneReadyFall s = .next { s with
          link := { s.link with laneReady := false, state := .down, helloTimer := none, helloDue := false } })
      ∧ (s.link.state = .down → exec .laneReadyFall s = .next { s with link := { s.link with laneReady := false } })

/-- When the link leaves UP, by the fall of lane ready, by silence, by a HELLO whose heard byte is clear, by LINK_ENABLE
written off or by LINK_RESTART, every queued stream leaves the seed queue, and the seed engine acts on the suspension of its
active stream by its phase: a wait for slots and a request for the port end, with the slots released; a read stays
outstanding with its fifth slot; END_WAIT goes on (R65, R70, R74, R88). The soft reset, which closes every stream, has a
statement of its own. -/
def Obligations.SuspensionAtSeedEngine : Prop :=
  ∀ (s : State) (i : WinIdx) (c : SourceCtx) (n : Nat), s.calm = true → s.link.state = .up →
    s.seed.active = some i → s.source? i = some c →
    (s.seed.queue.all fun j => (s.source? j).any fun d => d.state == .seeding) = true →
    ∀ cmd : Instr,
    (cmd = .laneReadyFall ∨ cmd = .silenceTimerExpiry ∧ s.link.silenceTimer = some 0 ∨ cmd = .helloFrame 1#8 false
      ∨ cmd = .linkEnableWrite 0#32 n ∧ 6 < n ∧ s.port.resetDue = false ∧ s.settings.linkEnable = true
      ∨ cmd = .linkRestart n ∧ 0 < n ∧ s.port.resetDue = false) →
    ∃ t, exec cmd s = .next t
    ∧ (c.state = .seeding → s.seed.flight = none → s.seed.phase = .slotWait ∨ s.seed.phase = .portWait →
          t.seed = { phase := .idle, active := none, chunkCount := 0, resv := none, flight := none, queue := [] }
        ∧ (s.seed.phase = .portWait → t.heldOfferDue = t.isHeld))
    ∧ (c.state = .seeding → s.seed.phase = .reading → (s.seed.flight.all fun f => f.win == i) = true →
          t.seed = { s.seed with active := none, chunkCount := 0, queue := [] })
    ∧ (c.state = .seeding ∨ c.state = .resuming → s.seed.phase = .endWait → s.seed.flight = none →
          t.seed = { s.seed with queue := [] })

/-- A HELLO received in TRAINING: the wrong version is counted, a clear heard byte sets the heard flag and calls for a
HELLO, a set one takes the link UP, where PENDING streams open and SUSPENDED ones resume (R83, R85, R112). -/
def Obligations.HelloInTraining : Prop :=
  ∀ (s : State) (version : Byte) (heard : Bool), s.calm = true → s.link.state = .training →
    (version ≠ 1#8 → exec (.helloFrame version heard) s = .next { s with
        link := { s.link with counters := { s.link.counters with
            framesReceived := s.link.counters.framesReceived + 1#32
            versionMismatches := s.link.counters.versionMismatches + 1#32 } } })
    ∧ (version = 1#8 → heard = false → exec (.helloFrame version heard) s = .next { s with
        link := { s.link with heard := true, helloDue := s.link.helloDue || !s.link.heard, counters := {
            s.link.counters with framesReceived := s.link.counters.framesReceived + 1#32 } } })
    ∧ (version = 1#8 → heard = true → ∃ t, exec (.helloFrame version heard) s = .next t
        ∧ t.link = { s.link with
            state := .up, heard := true, helloTimer := none, helloDue := false,
            silenceTimer := some s.settings.silenceLimit, keepaliveTimer := some s.settings.keepaliveInterval,
            counters := { s.link.counters with framesReceived := s.link.counters.framesReceived + 1#32 } }
        ∧ t.caused .linkUp = true
        ∧ ∀ (i : WinIdx) (c : SourceCtx), s.windowsValid = true → s.source? i = some c →
            (c.state = .pending → ∃ d, t.source? i = some d ∧ d.state = .opening ∧ d.epoch = c.epoch + 1#8
              ∧ d.triesLeft = 2 ∧ d.ctlTimer = some s.settings.controlTimeout ∧ (t.entry i).promotion = none
              ∧ ∀ r, c.openReason = some r → t.ctlSlot (s.entry i).stream = some
                { epoch := c.epoch + 1#8, body := .openReq (s.entry i).length r })
          ∧ (c.state = .suspended → t.source? i = some { c with
              state := .resuming, triesLeft := 2, ctlTimer := some s.settings.controlTimeout }
              ∧ t.ctlSlot (s.entry i).stream = some { epoch := c.epoch, body := .reopen c.oldest c.nextSeq })
          ∧ (c.state ≠ .pending → c.state ≠ .suspended → t.entry i = s.entry i))

/-- In UP a HELLO of the wrong version is only counted, a set heard byte restarts the silence timer, a clear one takes the link
through DOWN to TRAINING; a KEEPALIVE restarts the silence timer in UP, and takes a link in TRAINING UP. So does every
stream frame, which then has its full effect: that of the same frame received after the entry into UP, here where no
transmission comes between, and, whatever the transmitter does, the opening, resuming and stranger that the first frame
after an entry mostly is (R82, R84, R85, R86, R88, R124, R129, R139). What the applied point of the resuming counts is the
model's choice in one case (notes/assumptions/26.md). -/
def Obligations.LinkFramesInUp : Prop :=
  (∀ (s : State) (version : Byte) (heard : Bool), s.calm = true → s.link.state = .up →
      (version ≠ 1#8 → exec (.helloFrame version heard) s = .next { s with
          link := { s.link with counters := { s.link.counters with
              framesReceived := s.link.counters.framesReceived + 1#32
              versionMismatches := s.link.counters.versionMismatches + 1#32 } } })
    ∧ (version = 1#8 → heard = true → exec (.helloFrame version heard) s = .next { s.tookFrame with
        link := { s.tookFrame.link with heard := true } })
    ∧ (version = 1#8 → heard = false → s.settings.linkEnable = true → s.link.laneReady = true →
          ∃ t, exec (.helloFrame version heard) s = .next t
        ∧ t.link = { s.link with
            state := .training, heard := false, helloDue := true, helloTimer := some s.settings.helloInterval,
            silenceTimer := none, keepaliveTimer := none, keepaliveDue := false,
            counters := { s.link.counters with framesReceived := s.link.counters.framesReceived + 1#32 } }
        ∧ t.sched = { s.sched with ctl := Vector.replicate 16 none, ack := Vector.replicate 16 none }))
    ∧ (∀ s : State, s.calm = true →
      (s.link.state = .up → exec .keepaliveFrame s = .next s.tookFrame)
      ∧ (s.link.state = .training → ∃ t, exec .keepaliveFrame s = .next t
          ∧ t.link = { s.link with
              state := .up, helloTimer := none, helloDue := false, silenceTimer := some s.settings.silenceLimit,
              keepaliveTimer := some s.settings.keepaliveInterval,
              counters := { s.link.counters with framesReceived := s.link.counters.framesReceived + 1#32 } }
          ∧ t.caused .linkUp = true))
    ∧ (∀ (s : State) (id : StreamId) (epoch : Epoch) (b : Body),
          s.calm = true → s.link.state = .training → (Frame.stream id epoch b).formatOk = true →
          ((enterUp s).settled = true →
              exec (frameCommand (.stream id epoch b)) s = exec (frameCommand (.stream id epoch b)) (enterUp s))
        ∧ ∃ t, exec (frameCommand (.stream id epoch b)) s = .next t ∧ t.caused .linkUp = true
          ∧ t.link = { s.link with
              state := .up, helloTimer := none, helloDue := false, silenceTimer := some s.settings.silenceLimit,
              keepaliveTimer := some s.settings.keepaliveInterval,
              counters := { s.link.counters with
                framesReceived := s.link.counters.framesReceived + 1#32, staleFrames := t.link.counters.staleFrames } }
          ∧ ∀ (i : WinIdx) (c : SourceCtx), s.windowsValid = true → s.lookup id ≠ some i → s.source? i = some c →
            (c.state = .pending → ∀ r, c.openReason = some r → t.ctlSlot (s.entry i).stream = some
                { epoch := c.epoch + 1#8, body := .openReq (s.entry i).length r })
          ∧ (c.state = .suspended → t.source? i = some { c with
              state := .resuming, triesLeft := 2, ctlTimer := some s.settings.controlTimeout }
              ∧ t.ctlSlot (s.entry i).stream = some { epoch := c.epoch, body := .reopen c.oldest c.nextSeq })
          ∧ (c.state ≠ .pending → c.state ≠ .suspended → t.entry i = s.entry i))
    ∧ ∀ (s : State) (id : StreamId) (epoch : Epoch), s.calm = true → s.link.state = .training →
      (∀ i c, s.lookup id = some i → s.sink? i = some c →
          (∀ r : OpenReason, ¬ (epoch = c.epoch ∧ c.state = .seeding) →
              ∃ t, exec (.openFrame id epoch (s.entry i).length r) s = .next t
            ∧ t.sink? i = some { c with
                state := .seeding, epoch := epoch, expected := 0#16, held := [], ackCount := 0, ackTimer := none,
                nakOutstanding := false, closeReason := .none }
            ∧ t.ctlSlot id = some { epoch := epoch, body := .openAccept })
        ∧ ∀ o n : Seq, c.state = .suspended → c.epoch = epoch → seqLe o c.appliedPoint = true →
          seqLe c.appliedPoint n = true →
          ∃ t, exec (.reopenFrame id epoch o n) s = .next t
          ∧ t.ctlSlot id = some { epoch := epoch, body := .reopenReply .continues c.appliedPoint }
          ∧ t.sink? i = some { c with
              held := c.held.filter (·.underOp), ackCount := 0, ackTimer := none, nakOutstanding := false,
              state := c.prior.sinkState })
      ∧ ∀ r : RecBody, s.lookup id = none → r.formatOk = true →
        ∃ t, exec (.recordFrame id epoch r) s = .next t
        ∧ t.ctlSlot id = some { epoch := epoch, body := .close .notOpen }

/-- A frame discarded by either stage of the receive checker is counted by that stage and raises FRAME_ERROR; in DOWN no frame
is taken, of any kind (R89, R93). A reply for a stream without a source context, and a reply or CLOSE of another epoch than
the context's or of its epoch in a state that does not take it, is discarded as stale and changes no context; so is a RECORD
of another epoch than that of the open sink it is for (R94, R102, R116, R122, R149). -/
def Obligations.FramesDiscarded : Prop :=
  ((∀ (s : State) (bs : List Byte), s.calm = true → s.link.state ≠ .down →
       (receiveCheck bs = .crcError → exec (.frameError bs) s = .next { s with
           link := { s.link with counters := { s.link.counters with crcErrors := s.link.counters.crcErrors + 1#32 } }
           ev := s.ev.raise .frameError })
     ∧ (receiveCheck bs = .formatError → exec (.frameError bs) s = .next { s with
         link := { s.link with counters := {
             s.link.counters with formatErrors := s.link.counters.formatErrors + 1#32 } }
         ev := s.ev.raise .frameError }))
    ∧ ∀ s : State, s.calm = true → s.link.state = .down →
        (∀ bs, exec (.frameError bs) s = .next s) ∧ ∀ f, exec (frameCommand f) s = .next s)
    ∧ (∀ (s : State) (id : StreamId) (epoch : Epoch) (b : Body),
      s.calm = true → s.link.state = .up → (Frame.stream id epoch b).formatOk = true →
      (∀ len r, b ≠ .openReq len r) → (∀ o n, b ≠ .reopen o n) → (∀ r, b ≠ .record r) →
      ((∀ r, b ≠ .close r) ∧ s.findsSource id = none
        ∨ ∃ i c, s.lookup id = some i ∧ s.source? i = some c ∧ c.state ≠ .pending ∧ c.state ≠ .suspended
          ∧ c.state.takes b = false
        ∨ ∃ i c, s.lookup id = some i ∧ s.source? i = some c ∧ c.epoch ≠ epoch) →
      exec (frameCommand (.stream id epoch b)) s = .next s.tookStale)
    ∧ ∀ (s : State) (id : StreamId) (epoch : Epoch) (r : RecBody) (i : WinIdx) (c : SinkCtx),
      s.calm = true → s.link.state = .up → r.formatOk = true → s.lookup id = some i → s.sink? i = some c →
      c.state ≠ .closed → c.epoch ≠ epoch → exec (.recordFrame id epoch r) s = .next s.tookStale

/-- An OPEN at the sink: refused without a window, at a SOURCE window and for another LENGTH; repeated in SEEDING of its
epoch; the beginning of a new pairing otherwise (R123, R124). -/
def Obligations.OpenFrame : Prop :=
  ∀ (s : State) (id : StreamId) (epoch : Epoch) (length : Word) (reason : OpenReason),
    s.calm = true → s.link.state = .up →
    (s.lookup id = none → exec (.openFrame id epoch length reason) s =
        .next (setCtlSlot id (some { epoch := epoch, body := .openRefuse .noWindow }) s.tookFrame))
    ∧ (∀ i c, s.lookup id = some i → s.source? i = some c → exec (.openFrame id epoch length reason) s =
          .next (setCtlSlot id (some { epoch := epoch, body := .openRefuse .notSink }) s.tookFrame))
    ∧ ∀ i c, s.lookup id = some i → s.sink? i = some c →
      (length ≠ (s.entry i).length → exec (.openFrame id epoch length reason) s =
          .next (setCtlSlot id (some { epoch := epoch, body := .openRefuse .lengthMismatch }) s.tookFrame))
      ∧ (length = (s.entry i).length → epoch = c.epoch → c.state = .seeding →
            exec (.openFrame id epoch length reason) s =
            .next (setCtlSlot id (some { epoch := epoch, body := .openAccept }) s.tookFrame))
      ∧ (length = (s.entry i).length → ¬ (epoch = c.epoch ∧ c.state = .seeding) →
            ∃ t, exec (.openFrame id epoch length reason) s = .next t
          ∧ t.sink? i = some { c with
              state := .seeding, epoch := epoch, expected := 0#16, held := [], ackCount := 0, ackTimer := none,
              nakOutstanding := false, closeReason := .none }
          ∧ t.sched = (setCtlSlot id (some { epoch := epoch, body := .openAccept }) (setAckFlag id none s)).sched
          ∧ t.link = s.tookFrame.link ∧ ∀ j, j ≠ i → t.entry j = s.entry j)

/-- The replies to an OPEN, of the context's epoch in OPENING: OPEN_ACCEPT takes the stream to SEEDING and into the seed
queue, OPEN_REFUSE to FAULT with the matching reason (R106). -/
def Obligations.OpenReplies : Prop :=
  ∀ (s : State) (id : StreamId) (i : WinIdx) (c : SourceCtx),
    s.calm = true → s.link.state = .up → s.lookup id = some i → s.source? i = some c → c.state = .opening →
    (∃ t, exec (.openAcceptFrame id c.epoch) s = .next t
      ∧ t.source? i = some { c with state := .seeding, ctlTimer := none, triesLeft := 0, openReason := none }
      ∧ (s.seed.phase = .idle → t.seed.active = some i ∧ t.seed.chunkCount = 0 ∧ t.seed.queue = [])
      ∧ (s.seed.phase ≠ .idle → t.seed = { s.seed with queue := s.seed.queue ++ [i] })
      ∧ t.link = s.tookFrame.link ∧ t.sched = s.sched ∧ ∀ j, j ≠ i → t.entry j = s.entry j)
    ∧ ∀ r : RefuseReason, ∃ t d, exec (.openRefuseFrame id c.epoch r) s = .next t ∧ t.source? i = some d
      ∧ d.state = .fault ∧ d.diverged = true ∧ d.queue = [] ∧ d.ctlTimer = none ∧ d.openReason = none
      ∧ d.epoch = c.epoch
      ∧ d.faultReason = (match r with
            | .noWindow => .refusedNoWindow
            | .notSink => .refusedNotSink
            | .lengthMismatch => .refusedLength)
      ∧ t.caused .streamFault = true ∧ t.noticed (s.entry i).stream = true ∧ ∀ j, j ≠ i → t.entry j = s.entry j

/-- A REOPEN: answered PROMOTED by a window promoted in its epoch, CONTINUE by a sink of its epoch whose applied point lies
in the range it names, STALE otherwise (R139, R148). That an apply granted before a new pairing of the same epoch number
does not count in the applied point is the model's choice (notes/assumptions/26.md). -/
def Obligations.ReopenFrame : Prop :=
  ∀ (s : State) (id : StreamId) (epoch : Epoch) (o n : Seq), s.calm = true → s.link.state = .up →
    (∀ i c p, s.lookup id = some i → s.source? i = some c → (s.entry i).promotion = some p → p.epoch = epoch →
        exec (.reopenFrame id epoch o n) s = .next (setCtlSlot id
              (some { epoch := epoch, body := .promoted p.lastApplied (BitVec.ofNat 8 p.discarded) }) s.tookFrame))
    ∧ (∀ i c, s.lookup id = some i → s.sink? i = some c → c.state ≠ .closed → c.epoch = epoch →
          seqLe o c.appliedPoint = true → seqLe c.appliedPoint n = true →
          ∃ t, exec (.reopenFrame id epoch o n) s = .next t
        ∧ t.ctlSlot id = some { epoch := epoch, body := .reopenReply .continues c.appliedPoint }
        ∧ t.ackFlag id = none
        ∧ t.sink? i = some { c with
            held := c.held.filter (·.underOp), ackCount := 0, ackTimer := none, nakOutstanding := false,
            state := if c.state = .suspended then c.prior.sinkState else c.state }
        ∧ t.link = s.tookFrame.link ∧ ∀ j, j ≠ i → t.entry j = s.entry j)
    ∧ (s.lookup id = none
        ∨ (∃ i c, s.lookup id = some i ∧ s.source? i = some c ∧ ∀ p, (s.entry i).promotion = some p → p.epoch ≠ epoch)
        ∨ (∃ i c, s.lookup id = some i ∧ s.sink? i = some c ∧ (c.state = .closed ∨ c.epoch ≠ epoch
            ∨ seqLe o c.appliedPoint = false ∨ seqLe c.appliedPoint n = false)) →
          exec (.reopenFrame id epoch o n) s =
          .next (setCtlSlot id (some { epoch := epoch, body := .reopenReply .stale 0#16 }) s.tookFrame))

/-- A REOPEN_REPLY taken in RESUMING: CONTINUE in range frees what the sink has applied and returns the stream to its
prior state; a freed MARK completes the fence, a freed SEED_END makes the state LIVE, and a stream that returns to SEEDING
with its walk unfinished joins the seed queue. STALE, and CONTINUE out of range, reseed it (R52, R53, R58, R64, R110, R112,
R113). -/
def Obligations.ReopenReplyFrame : Prop :=
  ∀ (s : State) (id : StreamId) (i : WinIdx) (c : SourceCtx) (v : Verdict) (e : Seq),
    s.calm = true → s.link.state = .up → s.lookup id = some i → s.source? i = some c → c.state = .resuming →
    (v = .continues → (e - c.oldest).toNat ≤ (c.nextSeq - c.oldest).toNat →
        ∀ gone : List Record, gone = c.queue.take (e - c.oldest).toNat →
        ∃ t, exec (.reopenReplyFrame id c.epoch v e) s = .next t
      ∧ t.source? i = some { c with
          queue := c.queue.drop (e - c.oldest).toNat, oldest := e, txPtr := e, retryCount := 0, ctlTimer := none,
          triesLeft := 0
          fence := if (freedMark gone).isSome then none else c.fence
          lastFence := match freedMark gone with
          | some tag => some (.completed, tag)
          | none => c.lastFence
          state := if c.prior = .live ∨ gone.any (·.kind == .seedEnd) = true then .live else .seeding }
      ∧ ((freedMark gone).isSome = true → t.caused .fenceDone = true ∧ t.noticed (s.entry i).stream = true)
      ∧ (c.prior = .seeding → gone.any (·.kind == .seedEnd) = true →
            t.caused .streamLive = true ∧ t.noticed (s.entry i).stream = true)
      ∧ (c.prior = .seeding → gone.any (·.kind == .seedEnd) = false → c.cursor < (s.entry i).length.toNat →
            (s.seed.phase ≠ .idle → t.seed.queue = s.seed.queue ++ [i])
          ∧ (s.seed.phase = .idle → t.seed.active = some i))
      ∧ (c.prior = .live ∨ gone.any (·.kind == .seedEnd) = true ∨ (s.entry i).length.toNat ≤ c.cursor →
            t.seed = s.seed)
      ∧ ∀ j, j ≠ i → t.entry j = s.entry j)
    ∧ ((v = .stale ∨ (c.nextSeq - c.oldest).toNat < (e - c.oldest).toNat) →
          ∃ t d, exec (.reopenReplyFrame id c.epoch v e) s = .next t ∧ t.source? i = some d ∧ d.state = .opening
        ∧ d.epoch = c.epoch + 1#8 ∧ d.queue = [] ∧ d.nextSeq = 0#16 ∧ d.cursor = 0 ∧ d.triesLeft = 2
        ∧ d.openReason = some .reseed ∧ d.reseeds = c.reseeds + 1#32 ∧ t.caused .streamReseed = true
        ∧ t.noticed (s.entry i).stream = true
        ∧ t.ctlSlot (s.entry i).stream = some
          { epoch := c.epoch + 1#8, body := .openReq (s.entry i).length .reseed }
        ∧ ∀ j, j ≠ i → t.entry j = s.entry j)

/-- CLOSE and CLOSE_ACK: a CLOSE of its epoch faults an open source and ends a closing one, closes an open sink and is
answered CLOSE_ACK; a CLOSE_ACK ends a closing source (R118, R119, R140). -/
def Obligations.CloseFrames : Prop :=
  ∀ (s : State) (id : StreamId) (epoch : Epoch) (reason : CloseCode), s.calm = true → s.link.state = .up →
    (∀ i c, s.lookup id = some i → s.source? i = some c → c.epoch = epoch →
        (c.state = .opening ∨ c.state = .seeding ∨ c.state = .live ∨ c.state = .resuming →
            ∃ t d, exec (.closeFrameAtSource id epoch reason) s = .next t ∧ t.source? i = some d ∧ d.state = .fault
          ∧ d.faultReason = .peerClosed ∧ d.diverged = true ∧ d.queue = [] ∧ t.caused .streamFault = true
          ∧ t.sched = s.sched)
      ∧ (c.state = .closing → ∀ cmd,
            cmd = .closeFrameAtSource id epoch reason ∨ cmd = .closeAckFrame id epoch →
            ∃ t d, exec cmd s = .next t ∧ t.source? i = some d ∧ d.state = .closed ∧ d.epoch = c.epoch
          ∧ d.faultReason = c.faultReason ∧ d.queue = [] ∧ d.ctlTimer = none ∧ d.triesLeft = 0))
    ∧ (∀ i c, s.lookup id = some i → s.sink? i = some c → c.epoch = epoch → c.state ≠ .closed →
          ∃ t, exec (.closeFrameAtSink id epoch reason) s = .next t
        ∧ t.sink? i = some { c with
            state := .closed, closeReason := .peer, held := [], ackCount := 0, ackTimer := none,
            nakOutstanding := false }
        ∧ t.caused .streamClosed = true ∧ t.noticed (s.entry i).stream = true
        ∧ t.ctlSlot id = some { epoch := epoch, body := .closeAck } ∧ t.ackFlag (s.entry i).stream = none
        ∧ ∀ j, j ≠ i → t.entry j = s.entry j)
    ∧ (s.lookup id = none
        ∨ (∃ i c, s.lookup id = some i ∧ s.sink? i = some c ∧ (c.state = .closed ∨ c.epoch ≠ epoch)) →
          exec (.closeFrameAtSink id epoch reason) s =
          .next (setCtlSlot id (some { epoch := epoch, body := .closeAck }) s.tookFrame))

/-- A PROMOTED of its epoch: an open source frees what the promoted copy holds and faults with PEER_PROMOTED, a closing one
closes, and a window with YIELD on becomes a sink (R149, R150). -/
def Obligations.PromotedFrame : Prop :=
  ∀ (s : State) (id : StreamId) (i : WinIdx) (c : SourceCtx) (l : Seq) (n : Byte),
    s.calm = true → s.link.state = .up → s.lookup id = some i → s.source? i = some c → n.toNat ≤ 4 →
    (c.state = .seeding ∨ c.state = .live ∨ c.state = .resuming ∨ c.state = .closing) →
    ∃ t, exec (.promotedFrame id c.epoch l n) s = .next t ∧ (∀ j, j ≠ i → t.entry j = s.entry j)
    ∧ (c.state ≠ .closing → t.caused .streamFault = true ∧ t.noticed (s.entry i).stream = true)
    ∧ ((s.entry i).yieldOn = true → t.entry i = { s.entry i with role := .sink newSink }
        ∧ t.noticed (s.entry i).stream = true)
    ∧ ((s.entry i).yieldOn = false → c.state ≠ .closing → ∃ d, t.source? i = some d ∧ d.state = .fault
        ∧ d.faultReason = .peerPromoted ∧ d.diverged = true ∧ d.queue = [] ∧ d.fence = none
        ∧ (∀ tag, c.fence = some tag → freedMark c.queue = some tag →
              (l + 1#16 - c.oldest).toNat ≤ (c.nextSeq - c.oldest).toNat →
              d.lastFence = some
              (if freedMark (c.queue.take (l + 1#16 - c.oldest).toNat) = some tag then .completed else .abandoned, tag)))
    ∧ ((s.entry i).yieldOn = false → c.state = .closing → ∃ d, t.source? i = some d ∧ d.state = .closed
        ∧ d.faultReason = c.faultReason ∧ d.epoch = c.epoch)

/-- A RECORD of the sink's epoch in SEEDING or LIVE: misplaced it is stale; before expected seq it is a duplicate answered
with an ACK; held already it is a duplicate; beyond the window it is dropped and calls for a NAK (for the two
numbers that both precede expected seq and follow its window the model takes the first, notes/assumptions/17.md). A RECORD
for no open sink is answered with CLOSE, but one of the epoch in which its window was promoted with PROMOTED (R126, R127,
R129, R148). -/
def Obligations.RecordTurnedAway : Prop :=
  ∀ (s : State) (id : StreamId) (epoch : Epoch) (r : RecBody),
    s.calm = true → s.link.state = .up → r.formatOk = true →
    (∀ i c, s.lookup id = some i → s.sink? i = some c → c.epoch = epoch →
        (c.state = .seeding ∨ c.state = .live) →
        (misplaced (s.entry i).length r = true → exec (.recordFrame id epoch r) s = .next s.tookStale)
      ∧ (misplaced (s.entry i).length r = false → (c.heldAt r.seq).isSome = true →
            (r.seq - c.expected).toNat < 4 → exec (.recordFrame id epoch r) s =
            .next (s.tookFrame.modSink i fun c => { c with duplicates := c.duplicates + 1#32 }))
      ∧ (misplaced (s.entry i).length r = false → seqPrecedes r.seq c.expected = true → s.ackFlag id = none →
            exec (.recordFrame id epoch r) s =
            .next (setAckFlag id (some { isNak := false, seq := c.expected - 1#16, epoch := epoch })
                  (s.tookFrame.modSink i fun c => { c with duplicates := c.duplicates + 1#32 })))
      ∧ (misplaced (s.entry i).length r = false → 4 ≤ (r.seq - c.expected).toNat →
            seqPrecedes r.seq c.expected = false → c.nakOutstanding = false → exec (.recordFrame id epoch r) s =
            .next (setAckFlag id (some { isNak := true, seq := c.expected, epoch := epoch })
                  (s.tookFrame.modSink i fun c => { c with beyond := c.beyond + 1#32, nakOutstanding := true }))))
    ∧ ((s.lookup id = none
        ∨ (∃ i c, s.lookup id = some i ∧ s.source? i = some c ∧ ∀ p, (s.entry i).promotion = some p → p.epoch ≠ epoch)
        ∨ (∃ i c, s.lookup id = some i ∧ s.sink? i = some c ∧ c.state = .closed)) →
          exec (.recordFrame id epoch r) s =
          .next (setCtlSlot id (some { epoch := epoch, body := .close .notOpen }) s.tookFrame))
    ∧ ∀ i c p, s.lookup id = some i → s.source? i = some c → (s.entry i).promotion = some p → p.epoch = epoch →
      exec (.recordFrame id epoch r) s = .next (setCtlSlot id
            (some { epoch := epoch, body := .promoted p.lastApplied (BitVec.ofNat 8 p.discarded) }) s.tookFrame)

/-- A RECORD that a sink in SEEDING, LIVE or SUSPENDED admits into its empty window, or that completes a group there: a
SUSPENDED context returns to its prior state; ahead of a gap the record calls for one NAK; a WHOLE record at expected
seq, and a FIRST with its LAST, are requested from the IDLE apply engine; a MIDDLE or LAST at expected seq is discarded
(R126, R127, R128, R130, R131). -/
def Obligations.RecordHeld : Prop :=
  ∀ (s : State) (id : StreamId) (i : WinIdx) (c : SinkCtx) (r : RecBody),
    s.calm = true → s.link.state = .up → r.formatOk = true → s.lookup id = some i → s.sink? i = some c →
    c.state ≠ .closed → misplaced (s.entry i).length r = false → (r.seq - c.expected).toNat < 4 →
    (c.held = [] → ∀ st : SinkState, st = (if c.state = .suspended then c.prior.sinkState else c.state) →
        ∃ t, exec (.recordFrame id c.epoch r) s = .next t ∧ (∀ j, j ≠ i → t.entry j = s.entry j)
      ∧ (r.seq ≠ c.expected →
            t.sink? i = some { c with state := st, held := [{ body := r, underOp := false }], nakOutstanding := true }
          ∧ t.link = s.tookFrame.link ∧ t.apply = s.apply
          ∧ (c.nakOutstanding = true → t.sched = s.sched)
          ∧ (c.nakOutstanding = false →
                t.sched = (setAckFlag id (some { isNak := true, seq := c.expected, epoch := c.epoch }) s).sched))
      ∧ (r.seq = c.expected → r.kind = .write ∨ r.kind = .seed → r.pos = .whole ∨ r.pos = .first →
            t.sink? i = some { c with state := st, held := [{ body := r, underOp := false }] }
          ∧ t.link = s.tookFrame.link ∧ t.sched = s.sched
          ∧ t.apply = if s.apply.phase = .idle ∧ r.pos = .whole then
            { phase := .portWait, served := some { win := i, id := id, epoch := c.epoch, recs := [r] }, last := id }
            else s.apply)
      ∧ (r.seq = c.expected → r.kind = .write ∨ r.kind = .seed → r.pos = .middle ∨ r.pos = .last →
            t.sink? i = some { c with state := st, nakOutstanding := true }
          ∧ t.link = s.tookStale.link ∧ t.apply = s.apply
          ∧ t.sched = (setAckFlag id (some { isNak := true, seq := c.expected, epoch := c.epoch }) s).sched))
    ∧ ∀ f : RecBody, c.held = [{ body := f, underOp := false }] → c.state = .seeding ∨ c.state = .live →
      f.seq = c.expected → f.kind = .write ∨ f.kind = .seed → f.pos = .first → r.seq = c.expected + 1#16 →
      r.pos = .last → r.offset.toNat = f.offset.toNat + f.data.length →
      f.offset.toNat / 64 = (r.offset.toNat + r.data.length - 1) / 64 →
      ∃ t, exec (.recordFrame id c.epoch r) s = .next t
      ∧ t.sink? i = some { c with held := [{ body := f, underOp := false }, { body := r, underOp := false }] }
      ∧ t.sched = s.sched ∧ t.link = s.tookFrame.link ∧ (∀ j, j ≠ i → t.entry j = s.entry j)
      ∧ (s.apply.phase = .idle → t.apply =
            { phase := .portWait, served := some { win := i, id := id, epoch := c.epoch, recs := [f, r] }, last := id })

/-- A MARK at expected seq is applied and acknowledged at once; a SEED_END there takes a SEEDING sink to LIVE (R134,
R136). -/
def Obligations.MarkerApplied : Prop :=
  ∀ (s : State) (id : StreamId) (i : WinIdx) (c : SinkCtx) (r : RecBody),
    s.calm = true → s.link.state = .up → r.formatOk = true → s.lookup id = some i → s.sink? i = some c →
    (c.state = .seeding ∨ c.state = .live) → c.held = [] → r.seq = c.expected → (r.kind = .mark ∨ r.kind = .seedEnd) →
    s.ackFlag id = none →
    ∃ t, exec (.recordFrame id c.epoch r) s = .next t
    ∧ t.sink? i = some { c with
        state := if r.kind = .seedEnd then .live else c.state
        expected := c.expected + 1#16, applied := c.applied + 1#32, nakOutstanding := false
        ackCount := min (c.ackCount + 1) s.settings.ackEvery
        ackTimer := if c.ackCount = 0 then some s.settings.ackDelay else c.ackTimer }
    ∧ t.sched = (setAckFlag id (some { isNak := false, seq := c.expected, epoch := c.epoch }) s).sched
    ∧ (r.kind = .seedEnd → c.state = .seeding → t.caused .streamLive = true ∧ t.noticed (s.entry i).stream = true)
    ∧ t.link = s.tookFrame.link ∧ ∀ j, j ≠ i → t.entry j = s.entry j

/-! ### Acknowledgements and timers of a source stream -/

/-- An ACK and a NAK taken in SEEDING or LIVE: in range the ACK frees the records through the number it names, the NAK those
before it and rewinds the transmit pointer to it; the freed slots are offered, and the fence and the seeding end whose MARK
and SEED_END are freed. Out of range they are stale (R52, R53, R54, R58, R108, R109, R110). -/
def Obligations.AckAndNakFrames : Prop :=
  (∀ (s : State) (id : StreamId) (i : WinIdx) (c : SourceCtx) (a : Seq),
      s.calm = true → s.link.state = .up → s.lookup id = some i → s.source? i = some c →
      (c.state = .seeding ∨ c.state = .live) →
      ((c.txPtr - c.oldest).toNat ≤ (a - c.oldest).toNat → exec (.ackFrame id c.epoch a) s = .next s.tookStale)
    ∧ ∀ gone : List Record, gone = c.queue.take ((a - c.oldest).toNat + 1) →
        (a - c.oldest).toNat < (c.txPtr - c.oldest).toNat →
        ∃ t, exec (.ackFrame id c.epoch a) s = .next t
      ∧ t.source? i = some { c with
          queue := c.queue.drop ((a - c.oldest).toNat + 1), oldest := a + 1#16, retryCount := 0
          retxTimer := if a + 1#16 = c.txPtr then none else some s.settings.retxTimeout
          fence := if (freedMark gone).isSome then none else c.fence
          lastFence := match freedMark gone with
          | some tag => some (.completed, tag)
          | none => c.lastFence
          state := if gone.any (·.kind == .seedEnd) then .live else c.state }
      ∧ ((freedMark gone).isSome = true → t.caused .fenceDone = true ∧ t.noticed (s.entry i).stream = true)
      ∧ (c.state = .seeding → gone.any (·.kind == .seedEnd) = true →
            t.caused .streamLive = true ∧ t.noticed (s.entry i).stream = true)
      ∧ t.heldOfferDue = s.isHeld ∧ t.seedOfferDue = s.seedWaits ∧ t.acc = s.acc ∧ t.seed = s.seed
      ∧ t.link = s.tookFrame.link ∧ t.sched = s.sched ∧ ∀ j, j ≠ i → t.entry j = s.entry j)
    ∧ ∀ (s : State) (id : StreamId) (i : WinIdx) (c : SourceCtx) (a : Seq),
      s.calm = true → s.link.state = .up → s.lookup id = some i → s.source? i = some c →
      (c.state = .seeding ∨ c.state = .live) →
      ((c.txPtr - c.oldest).toNat < (a - c.oldest).toNat → exec (.nakFrame id c.epoch a) s = .next s.tookStale)
      ∧ ∀ gone : List Record, gone = c.queue.take (a - c.oldest).toNat →
        (a - c.oldest).toNat ≤ (c.txPtr - c.oldest).toNat →
        ∃ t, exec (.nakFrame id c.epoch a) s = .next t
        ∧ t.source? i = some { c with
            queue := (c.queue.drop (a - c.oldest).toNat).map fun r =>
            if r.status = .inFlight ∧ seqLe a r.seq = true then { r with status := .ready } else r
            oldest := a, txPtr := a, retxTimer := none
            retryCount := if a = c.oldest then c.retryCount else 0
            fence := if (freedMark gone).isSome then none else c.fence
            lastFence := match freedMark gone with
            | some tag => some (.completed, tag)
            | none => c.lastFence
            state := if gone.any (·.kind == .seedEnd) then .live else c.state }
        ∧ (a ≠ c.oldest → t.heldOfferDue = s.isHeld ∧ t.seedOfferDue = s.seedWaits)
        ∧ t.acc = s.acc ∧ t.seed = s.seed ∧ t.link = s.tookFrame.link ∧ t.sched = s.sched
        ∧ ∀ j, j ≠ i → t.entry j = s.entry j

/-- The retransmit timer's expiry: below RETX_LIMIT everything unacknowledged is rewound, at it the stream goes to FAULT with
NO_PROGRESS (R107). The control timer's: the frame awaited is placed again from the context as it stands while tries are
left; then OPENING and RESUMING end in FAULT with NO_REPLY, CLOSING in CLOSED (R105, R115, R118). The ack timer's: the ACK of
everything applied is flagged, unless an unsent NAK of expected seq stands in the flag (R136). -/
def Obligations.StreamTimers : Prop :=
  (∀ (s : State) (id : StreamId) (i : WinIdx) (c : SourceCtx),
      s.calm = true → s.lookup id = some i → s.source? i = some c → c.retxTimer = some 0 →
      (c.state = .seeding ∨ c.state = .live) →
      (c.retryCount < s.settings.retxLimit → exec (.retransmitTimerExpiry id) s =
          .next (s.setRole i (.source { c with
              retryCount := c.retryCount + 1, retxTimer := none, txPtr := c.oldest
              queue := c.queue.map fun r =>
              if r.status = .inFlight ∧ seqLe c.oldest r.seq = true then { r with status := .ready } else r })))
    ∧ (s.settings.retxLimit ≤ c.retryCount →
          ∃ t d, exec (.retransmitTimerExpiry id) s = .next t ∧ t.source? i = some d ∧ d.state = .fault
        ∧ d.faultReason = .noProgress ∧ d.diverged = true ∧ d.queue = [] ∧ d.retxTimer = none
        ∧ d.epoch = c.epoch ∧ t.caused .streamFault = true ∧ t.noticed (s.entry i).stream = true
        ∧ t.link = s.link ∧ t.sched = s.sched ∧ ∀ j, j ≠ i → t.entry j = s.entry j))
    ∧ (∀ (s : State) (id : StreamId) (i : WinIdx) (c : SourceCtx),
          s.calm = true → s.link.state = .up → s.lookup id = some i → s.source? i = some c → c.ctlTimer = some 0 →
          (0 < c.triesLeft → ∀ body : Body,
              (c.state = .opening ∧ (∃ r, c.openReason = some r ∧ body = .openReq (s.entry i).length r)
                ∨ c.state = .resuming ∧ body = .reopen c.oldest c.nextSeq
                ∨ c.state = .closing ∧ body = .close .fromLocal) →
              exec (.controlTimerExpiry id) s = .next (setCtlSlot id (some { epoch := c.epoch, body := body })
                    (s.setRole i (.source { c with
                        triesLeft := c.triesLeft - 1, ctlTimer := some s.settings.controlTimeout }))))
        ∧ (c.triesLeft = 0 → c.state = .opening ∨ c.state = .resuming →
              ∃ t d, exec (.controlTimerExpiry id) s = .next t ∧ t.source? i = some d ∧ d.state = .fault
            ∧ d.faultReason = .noReply ∧ d.diverged = true ∧ d.queue = [] ∧ d.ctlTimer = none ∧ d.epoch = c.epoch
            ∧ t.caused .streamFault = true ∧ t.noticed (s.entry i).stream = true ∧ t.sched = s.sched
            ∧ ∀ j, j ≠ i → t.entry j = s.entry j)
        ∧ (c.triesLeft = 0 → c.state = .closing →
              ∃ t d, exec (.controlTimerExpiry id) s = .next t ∧ t.source? i = some d ∧ d.state = .closed
            ∧ d.faultReason = c.faultReason ∧ d.queue = [] ∧ d.ctlTimer = none ∧ d.epoch = c.epoch
            ∧ t.sched = s.sched ∧ ∀ j, j ≠ i → t.entry j = s.entry j))
    ∧ ∀ (s : State) (id : StreamId) (i : WinIdx) (c : SinkCtx),
      s.calm = true → s.link.state = .up → s.lookup id = some i → s.sink? i = some c → c.ackTimer = some 0 →
      (c.state = .seeding ∨ c.state = .live) →
      ((∃ epoch, s.ackFlag id = some { isNak := true, seq := c.expected, epoch := epoch }) →
          exec (.ackTimerExpiry id) s = .next (s.setRole i (.sink { c with ackTimer := none })))
      ∧ ((∀ epoch, s.ackFlag id ≠ some { isNak := true, seq := c.expected, epoch := epoch }) →
            exec (.ackTimerExpiry id) s =
            .next (setAckFlag id (some { isNak := false, seq := c.expected - 1#16, epoch := c.epoch })
                  (s.setRole i (.sink { c with ackTimer := none }))))

/-- The expiries of the link's timers: a HELLO falls due and its timer restarts; a KEEPALIVE falls due; silence takes the
link from UP through DOWN (R82, R86, R87, R88). A tick that finds no expiry due lowers every running timer by one and leaves
all else; the next tick takes the divisor as it stands (R172). -/
def Obligations.LinkTimersAndTick : Prop :=
  (∀ s : State, s.calm = true →
    (s.link.helloTimer = some 0 → exec .helloTimerExpiry s = .next { s with
        link := { s.link with helloDue := true, helloTimer := some s.settings.helloInterval } })
    ∧ (s.link.keepaliveTimer = some 0 → exec .keepaliveTimerExpiry s = .next { s with
        link := { s.link with keepaliveDue := true, keepaliveTimer := none } })
    ∧ (s.link.silenceTimer = some 0 → s.link.state = .up → s.settings.linkEnable = true → s.link.laneReady = true →
          ∃ t, exec .silenceTimerExpiry s = .next t
        ∧ t.link = { s.link with
            state := .training, heard := false, helloDue := true, helloTimer := some s.settings.helloInterval,
            silenceTimer := none, keepaliveTimer := none, keepaliveDue := false }
        ∧ t.sched = { s.sched with ctl := Vector.replicate 16 none, ack := Vector.replicate 16 none }
        ∧ (t.midEvent = false → t.caused .linkDown = true)))
    ∧ ∀ s : State, s.calm = true → s.expiryDue = false →
    ∃ t, exec .tick s = .next t
    ∧ t = { s with
        acc := { s.acc with holdTimer := s.acc.holdTimer.map (· - 1) }
        link := { s.link with
            helloTimer := s.link.helloTimer.map (· - 1), silenceTimer := s.link.silenceTimer.map (· - 1)
            keepaliveTimer := s.link.keepaliveTimer.map (· - 1) }
        windows := t.windows, tickLength := s.settings.tickDivisor }
    ∧ ∀ i : WinIdx, (∀ c : SourceCtx, (s.entry i).role = .source c → t.entry i = { s.entry i with
        role := .source { c with retxTimer := c.retxTimer.map (· - 1), ctlTimer := c.ctlTimer.map (· - 1) } })
      ∧ (∀ c : SinkCtx, (s.entry i).role = .sink c → t.entry i = { s.entry i with
          role := .sink { c with ackTimer := c.ackTimer.map (· - 1) } })
      ∧ ((s.entry i).role = .off → t.entry i = s.entry i)

/-! ### Transmission -/

/-- The link frames and the control class: a due HELLO in TRAINING, a due KEEPALIVE before all else in UP, then the control
frame of the next stream in rotation; and the end of a transmission (R80, R87, R95, R96, R97). The acknowledgement class,
when no control frame waits: the flag of the next stream in rotation goes out, and the sink context of its epoch is told
(R96, R98, R137). -/
def Obligations.TransmitLinkControlAndAck : Prop :=
  (∀ s : State, s.still = true → s.sched.tx = none →
      (s.link.state = .training → s.link.helloDue = true → exec .transmissionBegin s = .next { s with
          link := { s.link with helloDue := false, counters := {
              s.link.counters with framesSent := s.link.counters.framesSent + 1#32 } }
          sched := { s.sched with tx := some (.hello 1#8 s.link.heard) } })
    ∧ (s.link.state = .up → s.link.keepaliveDue = true → exec .transmissionBegin s = .next { s with
        link := { s.link with keepaliveDue := false, keepaliveTimer := some s.settings.keepaliveInterval, counters := {
            s.link.counters with framesSent := s.link.counters.framesSent + 1#32 } }
        sched := { s.sched with tx := some .keepalive } })
    ∧ (s.link.state = .up → s.link.keepaliveDue = false → ∀ (id : StreamId) (f : CtlFrame), s.ctlSlot id = some f →
          (∀ x : StreamId, (x - s.sched.lastCtl - 1#4).toNat < (id - s.sched.lastCtl - 1#4).toNat →
              s.ctlSlot x = none) →
          exec .transmissionBegin s = .next { s with
              link := { s.link with keepaliveTimer := some s.settings.keepaliveInterval, counters := {
                  s.link.counters with framesSent := s.link.counters.framesSent + 1#32 } }
              sched := { s.sched with
                  ctl := s.sched.ctl.set (slotIdx id) none, lastCtl := id, tx := some (.stream id f.epoch f.body) } }))
    ∧ (∀ (s : State) (f : Frame), s.calm = true → s.sched.tx = some f →
      exec .transmissionEnd s = .next { s with sched := { s.sched with tx := none, sent := some (f, s.link.laneReady) } })
    ∧ ∀ (s : State) (id : StreamId) (f : AckFlag), s.still = true → s.sched.tx = none → s.link.state = .up →
    s.link.keepaliveDue = false → (∀ x, s.ctlSlot x = none) → s.ackFlag id = some f →
    (∀ x : StreamId, (x - s.sched.lastAck - 1#4).toNat < (id - s.sched.lastAck - 1#4).toNat → s.ackFlag x = none) →
    ∃ t, exec .transmissionBegin s = .next t
    ∧ t.link = { s.link with keepaliveTimer := some s.settings.keepaliveInterval, counters := {
        s.link.counters with framesSent := s.link.counters.framesSent + 1#32 } }
    ∧ t.sched = { s.sched with
        ack := s.sched.ack.set (slotIdx id) none, lastAck := id
        tx := some (.stream id f.epoch (if f.isNak then .nak f.seq else .ack f.seq)) }
    ∧ ((s.lookup id = none ∨ ∃ i, s.lookup id = some i ∧ ∀ c, s.sink? i = some c → c.epoch ≠ f.epoch) →
          t.windows = s.windows)
    ∧ ∀ (i : WinIdx) (c : SinkCtx), s.lookup id = some i → s.sink? i = some c → c.epoch = f.epoch →
      t.windows = (s.setRole i (.sink { c with
          ackCount := 0, ackTimer := none
          naksSent := if f.isNak then c.naksSent + 1#32 else c.naksSent })).windows

/-- The record class, when no control frame and no acknowledgement waits: the record at the transmit pointer of the next
stream in rotation goes out and becomes IN_FLIGHT, and the pointer moves past it (R43, R96, R99, R107). -/
def Obligations.TransmitRecord : Prop :=
  ∀ (s : State) (id : StreamId) (i : WinIdx) (c : SourceCtx) (r : Record),
    s.still = true → s.sched.tx = none → s.link.state = .up → s.link.keepaliveDue = false →
    (∀ x, s.ctlSlot x = none) → (∀ x, s.ackFlag x = none) → s.lookup id = some i → s.source? i = some c →
    (c.state = .seeding ∨ c.state = .live) → c.txPtr ≠ c.nextSeq → c.queue[(c.txPtr - c.oldest).toNat]? = some r →
    r.status = .ready →
    (∀ x : StreamId, (x - s.sched.lastRec - 1#4).toNat < (id - s.sched.lastRec - 1#4).toNat →
        s.sendableFor x = none) →
    exec .transmissionBegin s = .next { s.setRole i (.source { c with
        queue := c.queue.map fun x => if x.seq = r.seq then { x with status := .inFlight, sentBefore := true } else x
        retransmitted := if r.sentBefore then c.retransmitted + 1#32 else c.retransmitted
        recordsSent := c.recordsSent + 1#32, txPtr := c.txPtr + 1#16
        retxTimer := some (c.retxTimer.getD s.settings.retxTimeout) }) with
        link := { s.link with keepaliveTimer := some s.settings.keepaliveInterval, counters := {
            s.link.counters with framesSent := s.link.counters.framesSent + 1#32 } }
        sched := { s.sched with
            lastRec := id
            tx := some (.stream id c.epoch (.record {
                seq := r.seq, kind := r.kind, pos := r.pos, offset := r.offset, tag := r.tag.getD 0#8
                data := r.data.getD [] })) } }

/-! ### The management port -/

/-- Reading items: a mapped item gives its value, an unmapped one BAD_ITEM, and nothing changes but the count of free values
used (notes/assumptions/12.md); a stream's items describe its context, and reading the first of them takes the stream out
of the notice set (R162, R166, R168, R171). -/
def Obligations.ReadItems : Prop :=
  ∀ (s : State) (n : Nat), s.quiet = true → 2 < n →
    (∀ p ∈ [(0x0000#16, 0x41200101#32), (0x0010#16, BitVec.ofNat 32 s.settings.tickDivisor),
            (0x0015#16, BitVec.ofNat 32 s.settings.ackEvery), (0x0019#16, BitVec.ofNat 32 s.settings.silenceLimit),
            (0x0201#16, s.link.counters.framesSent), (0x0202#16, s.link.counters.framesReceived),
            (0x0203#16, s.link.counters.crcErrors), (0x0204#16, s.link.counters.formatErrors),
            (0x0205#16, s.link.counters.versionMismatches), (0x0206#16, s.link.counters.staleFrames),
            (0x0210#16, BitVec.ofNat 32 s.freeCount), (0x0300#16, s.ev.pending.setWidth 32),
            (0x0301#16, s.ev.unmasked.setWidth 32), (0x0302#16, s.conditions.setWidth 32),
            (0x0303#16, s.ev.notice.setWidth 32)],
        exec (.readItem p.1 n) s = .next { s with port := donePort 8 n (be32 p.2) .done })
    ∧ (∀ (item : BitVec 16) (x : Item), itemOf item = some x → (∀ id, x ≠ .stream id 0) →
          ∃ t, exec (.readItem item n) s = .next t
        ∧ t = { s with port := donePort 8 n (be32 (s.itemValue x)) .done, freeReads := t.freeReads })
    ∧ (∀ item : BitVec 16, itemOf item = none →
          exec (.readItem item n) s = .next { s with port := donePort 8 n (be32 0#32) .badItem })
    ∧ ∀ (id : StreamId) (v : Word), v = s.readStream id 0 →
      exec (.streamStatusRead id n) s = .next { s with
          port := donePort 8 n (be32 v) .done
          ev := { s.ev with notice := s.ev.notice &&& ~~~ (1#16 <<< id.toNat) } }
      ∧ (s.lookup id = none → v = 0#32)
      ∧ (∀ i c, s.lookup id = some i → s.source? i = some c →
            getField v 0 4 = 1 ∧ getField v 4 4 = c.state.code ∧ getField v 8 8 = c.prior.code
          ∧ getField v 16 8 = c.epoch.toNat ∧ getField v 24 4 = c.diverged.toNat ∧ getField v 28 4 = i.val
          ∧ s.readStream id 1 = c.nextSeq ++ c.oldest ∧ (s.readStream id 2).extractLsb' 0 16 = c.txPtr
          ∧ (s.readStream id 5).toNat = c.faultReason.code
          ∧ (∀ tag, c.fence = some tag →
                getField (s.readStream id 6) 0 1 = 1 ∧ getField (s.readStream id 6) 8 8 = tag.toNat)
          ∧ (c.fence = none → getField (s.readStream id 6) 0 1 = 0)
          ∧ (∀ p, c.lastFence = some p →
                getField (s.readStream id 6) 16 2 = p.1.code ∧ getField (s.readStream id 6) 24 8 = p.2.toNat)
          ∧ (c.lastFence = none → getField (s.readStream id 6) 16 2 = 0)
          ∧ (∀ p, (s.entry i).promotion = some p → p.discarded ≤ 4 →
                getField (s.readStream id 7) 31 1 = 1 ∧ getField (s.readStream id 7) 16 8 = p.epoch.toNat
              ∧ getField (s.readStream id 7) 0 16 = p.lastApplied.toNat ∧ getField (s.readStream id 7) 24 3 = p.discarded)
          ∧ ((s.entry i).promotion = none → getField (s.readStream id 7) 31 1 = 0)
          ∧ s.readStream id 8 = c.recordsSent ∧ s.readStream id 9 = c.retransmitted ∧ s.readStream id 10 = c.merges
          ∧ s.readStream id 11 = c.reseeds)
      ∧ ∀ i c, s.lookup id = some i → s.sink? i = some c →
        getField v 0 4 = 2 ∧ getField v 4 4 = c.state.code ∧ getField v 8 8 = c.prior.code
        ∧ getField v 16 8 = c.epoch.toNat ∧ getField v 24 4 = 2 * c.nakOutstanding.toNat
        ∧ getField v 28 4 = i.val ∧ s.readStream id 1 = c.expected.setWidth 32
        ∧ (s.readStream id 5).toNat = c.closeReason.code ∧ s.readStream id 6 = 0#32
        ∧ s.readStream id 8 = c.applied ∧ s.readStream id 9 = c.duplicates ∧ s.readStream id 10 = c.beyond
        ∧ s.readStream id 11 = c.naksSent

/-- Writing a setting: out of its range, or against the cross-check, it is refused; the present value changes nothing; a new
value is taken. An unmapped item gives BAD_ITEM and a read-only one READ_ONLY (R169, R173). -/
def Obligations.SettingWrites : Prop :=
  ∀ (s : State) (v : Word) (n : Nat), s.quiet = true → 6 < n →
    (∀ (j : Nat) (k : Setting), settingList[j]? = some k →
        (s.settings.accepts k v.toNat = false → exec (.writeItem (BitVec.ofNat 16 (16 + j)) v n) s =
            .next { s with port := donePort 7 n [] .refusedRange })
      ∧ (s.settings.accepts k v.toNat = true → s.settings.get k = v.toNat →
            exec (.writeItem (BitVec.ofNat 16 (16 + j)) v n) s = .next { s with port := donePort 7 n [] .done })
      ∧ (s.settings.accepts k v.toNat = true → k ≠ .ackEvery → k ≠ .journalLow → k ≠ .linkEnable →
            exec (.writeItem (BitVec.ofNat 16 (16 + j)) v n) s = .next { s with
                port := donePort 7 n [] .done, settings := s.settings.put k v.toNat }))
    ∧ exec (.tickDivisorWrite v n) s = .next (if 1 ≤ v.toNat ∧ v.toNat ≤ 1023 then
          { s with port := donePort 7 n [] .done, settings := { s.settings with tickDivisor := v.toNat } }
          else { s with port := donePort 7 n [] .refusedRange })
    ∧ settingList.map Setting.range = [(1, 1023), (1, 65535), (10, 65535), (1, 15), (10, 65535), (1, 16), (1, 255),
                                       (10, 65535), (10, 65535), (20, 65535), (0, 255), (0, 1)]
    ∧ (∀ k : Setting, s.settings.accepts k v.toNat = true ↔
          k.range.1 ≤ v.toNat ∧ v.toNat ≤ k.range.2
        ∧ (k = .silenceLimit → s.settings.keepaliveInterval < v.toNat)
        ∧ (k = .keepaliveInterval → v.toNat < s.settings.silenceLimit))
    ∧ (∀ item : BitVec 16, itemOf item = none →
          exec (.writeItem item v n) s = .next { s with port := donePort 7 n [] .badItem })
    ∧ ∀ item ∈ [0x0000#16, 0x0200#16, 0x0206#16, 0x0210#16, 0x0300#16, 0x0302#16, 0x0303#16, 0x1000#16, 0x10FB#16],
      exec (.writeItem item v n) s = .next { s with port := donePort 7 n [] .readOnly }

/-- The settings that act at once: LINK_ENABLE takes the link out of DOWN or into it, JOURNAL_LOW is compared anew with the
free count, ACK_EVERY clamps the ack counts above it and flags their ACKs (R59, R89, R137, R173). -/
def Obligations.SettingsThatActAtOnce : Prop :=
  ∀ (s : State) (n : Nat), s.quiet = true → 6 < n →
    (s.settings.linkEnable = false → s.link.state = .down → ∃ t, exec (.linkEnableWrite 1#32 n) s = .next t
      ∧ t = { s with
          settings := { s.settings with linkEnable := true }, port := donePort 7 n [] .done, ev := t.ev
          link := if s.link.laneReady then
          { s.link with state := .training, heard := false, helloDue := true,
                        helloTimer := some s.settings.helloInterval }
          else s.link }
      ∧ t.ev.cond &&& Cause.linkDown.bit = Cause.linkDown.bit
      ∧ (s.ev.cond &&& Cause.linkDown.bit = 0#13 → t.caused .linkDown = true))
    ∧ (s.settings.linkEnable = true → s.link.state = .training → ∃ t, exec (.linkEnableWrite 0#32 n) s = .next t
        ∧ t = { s with
            settings := { s.settings with linkEnable := false }, port := donePort 7 n [] .done, ev := t.ev
            link := { s.link with state := .down, helloTimer := none, helloDue := false } }
        ∧ t.ev.cond &&& Cause.linkDown.bit = 0#13)
    ∧ (s.settings.linkEnable = true → s.link.state = .up → ∃ t, exec (.linkEnableWrite 0#32 n) s = .next t
        ∧ t.settings = { s.settings with linkEnable := false } ∧ t.port = donePort 7 n [] .done
        ∧ t.link = { s.link with
            state := .down, silenceTimer := none, keepaliveTimer := none, keepaliveDue := false }
        ∧ t.sched = { s.sched with ctl := Vector.replicate 16 none, ack := Vector.replicate 16 none })
    ∧ (∀ v : Word, v.toNat ≤ 255 → ∃ t, exec (.journalLowWrite v n) s = .next t
        ∧ t = { s with
            settings := { s.settings with journalLow := v.toNat }, port := donePort 7 n [] .done, ev := t.ev }
        ∧ t.ev.cond &&& Cause.journalLow.bit = (if s.freeCount < v.toNat then Cause.journalLow.bit else 0#13)
        ∧ (s.ev.cond &&& Cause.journalLow.bit = 0#13 → s.freeCount < v.toNat → t.caused .journalLow = true))
    ∧ ∀ v : Word, 1 ≤ v.toNat → v.toNat ≤ 16 → v.toNat ≠ s.settings.ackEvery →
      ∃ t, exec (.ackEveryWrite v n) s = .next t
      ∧ t.settings = { s.settings with ackEvery := v.toNat } ∧ t.port = donePort 7 n [] .done ∧ t.link = s.link
      ∧ ∀ i : WinIdx, ((s.sink? i).isNone = true → t.entry i = s.entry i)
        ∧ ∀ c, s.sink? i = some c → t.sink? i = some { c with ackCount := min c.ackCount v.toNat }
          ∧ (s.windowsValid = true → s.link.state = .up → v.toNat < c.ackCount →
                c.state = .seeding ∨ c.state = .live → s.ackFlag (s.entry i).stream = none →
                t.ackFlag (s.entry i).stream =
                some { isNak := false, seq := c.expected - 1#16, epoch := c.epoch })

/-- Writing an item of a window entry: refused while its context is not CLOSED, out of range, and in conflict with another
enabled entry, in that order; accepted it takes the fields, makes the PROMOTION record absent and changes the context as
MODE changes (R24, R25, R26, R27, R29, R170). -/
def Obligations.WindowEntryWrite : Prop :=
  ∀ (s : State) (i : WinIdx) (x : EntryItem) (v : Word) (n : Nat), s.quiet = true → 6 < n →
    ((∃ c, s.source? i = some c ∧ c.state ≠ .closed) ∨ (∃ c, s.sink? i = some c ∧ c.state ≠ .closed) →
        exec (.windowEntryWrite i x v n) s = .next { s with port := donePort 7 n [] .refusedBusy })
    ∧ ((∀ c, s.source? i = some c → c.state = .closed) → (∀ c, s.sink? i = some c → c.state = .closed) →
          ((s.entry i).inRange x v = false →
              exec (.windowEntryWrite i x v n) s = .next { s with port := donePort 7 n [] .refusedRange })
        ∧ ((s.entry i).inRange x v = true → s.conflicts i x ((s.entry i).written x v) = true →
              exec (.windowEntryWrite i x v n) s = .next { s with port := donePort 7 n [] .refusedConflict })
        ∧ ((s.entry i).inRange x v = true → s.conflicts i x ((s.entry i).written x v) = false →
              ∃ t, exec (.windowEntryWrite i x v n) s = .next t ∧ t.port = donePort 7 n [] .done
            ∧ (∀ j, j ≠ i → t.entry j = s.entry j) ∧ t.link = s.link ∧ t.sched = s.sched ∧ t.acc = s.acc
            ∧ t.seed = s.seed ∧ t.settings = s.settings
            ∧ (x = .base → t.entry i = { s.entry i with base := v, promotion := none })
            ∧ (x = .length → t.entry i = { s.entry i with length := v, promotion := none })
            ∧ (x = .options → t.entry i = { s.entry i with
                policy := if getField v 0 2 = 0 then .hold else .spill, quota := getField v 8 9
                readGuard := getField v 24 2 = 1, yieldOn := getField v 26 2 = 1, promotion := none })
            ∧ (x = .mode → t.entry i = { s.entry i with
                stream := v.extractLsb' 8 4, promotion := none
                role := match (s.entry i).role, getField v 0 2 with
                | .source c, 1 => .source c
                | .sink c, 2 => .sink c
                | _, 1 => .source (newSource 0#8)
                | _, 2 => .sink newSink
                | _, _ => .off })))

/-- The event mask item sets every mask, which decides the attention line and nothing else; ACK_EVENTS acknowledges exactly
the causes it names (R158, R159, R160). -/
def Obligations.MasksAndAcknowledges : Prop :=
  ∀ (s : State) (n : Nat), s.quiet = true →
    (∀ v : Word, 6 < n → exec (.eventMaskWrite v n) s = .next { s with
        port := donePort 7 n [] .done, ev := { s.ev with unmasked := v.extractLsb' 0 13 } })
    ∧ (∀ causes : BitVec 16, 2 < n → ∃ t, exec (.ackEvents causes n) s = .next t
        ∧ t = { s with port := donePort 3 n [] .done, ev := t.ev }
        ∧ ∀ c : Cause, (causes.getLsbD c.position = true →
              t.ev.pending &&& c.bit = (s.ev.acknowledge c.bit).pending &&& c.bit
            ∧ t.ev.ackMem &&& c.bit = (s.ev.acknowledge c.bit).ackMem &&& c.bit)
          ∧ (causes.getLsbD c.position = false →
                t.ev.pending &&& c.bit = s.ev.pending &&& c.bit ∧ t.ev.ackMem &&& c.bit = s.ev.ackMem &&& c.bit)
          ∧ t.ev.cond = s.ev.cond ∧ t.ev.unmasked = s.ev.unmasked ∧ t.ev.notice = s.ev.notice)
    ∧ (attnLow s = true ↔ ∃ c : Cause, s.ev.pending &&& c.bit ≠ 0#13 ∧ s.ev.unmasked &&& c.bit ≠ 0#13)

/-- OPEN, CLOSE and RESEED of a source stream, in every state of its context (R103, R104, R113, R114, R117, R118). -/
def Obligations.SourceOperations : Prop :=
  ∀ (s : State) (id : StreamId) (i : WinIdx) (c : SourceCtx) (arg : Byte) (n : Nat),
    s.quiet = true → 3 < n → s.lookup id = some i → s.source? i = some c →
    (c.state ≠ .closed → exec (.openOperation (id.setWidth 8) arg n) s =
        .next { s with port := donePort 4 n [] .refusedState })
    ∧ (c.state = .closed → s.link.state ≠ .up → exec (.openOperation (id.setWidth 8) arg n) s =
          .next { s.setRole i (.source { c with state := .pending, openReason := some .new }) with
              port := donePort 4 n [] .done })
    ∧ (c.state = .closed → s.link.state = .up → ∃ t, exec (.openOperation (id.setWidth 8) arg n) s = .next t
        ∧ t.port = donePort 4 n [] .done
        ∧ t.entry i = { s.entry i with promotion := none, role := .source { c with
            state := .opening, openReason := some .new, epoch := c.epoch + 1#8, nextSeq := 0#16, oldest := 0#16,
            txPtr := 0#16, cursor := 0, retryCount := 0, faultReason := .none, diverged := false, retxTimer := none,
            triesLeft := 2, ctlTimer := some s.settings.controlTimeout } }
        ∧ t.sched = (setCtlSlot id (some
              { epoch := c.epoch + 1#8, body := .openReq (s.entry i).length .new }) s).sched
        ∧ ∀ j, j ≠ i → t.entry j = s.entry j)
    ∧ (c.state = .closed → exec (.closeOperation (id.setWidth 8) arg n) s =
          .next { s with port := donePort 4 n [] .refusedState })
    ∧ (c.state ≠ .closed → ∃ t d, exec (.closeOperation (id.setWidth 8) arg n) s = .next t
        ∧ t.source? i = some d ∧ t.port = donePort 4 n [] .done ∧ d.queue = [] ∧ d.epoch = c.epoch ∧ d.cursor = 0
        ∧ d.openReason = none ∧ (∀ j, j ≠ i → t.entry j = s.entry j)
        ∧ (c.state = .pending ∨ c.state = .suspended ∨ c.state = .fault ∨ c.state = .closing →
              d.state = .closed ∧ d.ctlTimer = none ∧ t.sched = s.sched)
        ∧ (c.state = .opening ∨ c.state = .seeding ∨ c.state = .live ∨ c.state = .resuming →
              d.state = .closing ∧ d.triesLeft = 2 ∧ d.ctlTimer = some s.settings.controlTimeout ∧ d.retxTimer = none
            ∧ (s.link.state = .up →
                  t.sched = (setCtlSlot id (some { epoch := c.epoch, body := .close .fromLocal }) s).sched))
        ∧ ∀ tag, c.fence = some tag → d.fence = none ∧ d.lastFence = some (.abandoned, tag)
          ∧ t.caused .fenceDone = true ∧ t.noticed (s.entry i).stream = true)
    ∧ (c.state = .closed ∨ c.state = .pending ∨ c.state = .opening ∨ c.state = .closing →
          exec (.reseedOperation (id.setWidth 8) arg n) s = .next { s with port := donePort 4 n [] .refusedState })
    ∧ (c.state = .seeding ∨ c.state = .live ∨ c.state = .suspended ∨ c.state = .resuming ∨ c.state = .fault →
          ∃ t d, exec (.reseedOperation (id.setWidth 8) arg n) s = .next t ∧ t.source? i = some d
        ∧ t.port = donePort 4 n [] .done ∧ d.queue = [] ∧ d.cursor = 0 ∧ d.fence = none ∧ d.openReason = some .reseed
        ∧ d.reseeds = c.reseeds + 1#32 ∧ t.caused .streamReseed = true ∧ t.noticed (s.entry i).stream = true
        ∧ (s.link.state = .up → d.state = .opening ∧ d.epoch = c.epoch + 1#8
            ∧ t.sched = (setCtlSlot id (some { epoch := d.epoch, body := .openReq (s.entry i).length .reseed })
                  s).sched)
        ∧ (s.link.state ≠ .up → d.state = .pending ∧ d.epoch = c.epoch)
        ∧ ∀ j, j ≠ i → t.entry j = s.entry j)

/-- What the discard of a stream's journal takes from the access unit and the seed engine, in the CLOSE and RESEED operations
and in a fault by the partner's CLOSE: a reservation for the stream goes and the request keeps its place, a held write of the
stream goes to REQUESTING, a granted write is no longer journaled; the stream leaves the seed queue, the engine's wait or
request for it ends and the next stream is taken, its read is orphaned and loses the fifth slot. Another stream's write and
wait are left (R12, R16, R19, R55, R65, R66, R75). -/
def Obligations.DiscardAtEngineAndAccessUnit : Prop :=
  ∀ (s : State) (id : StreamId) (i : WinIdx) (c : SourceCtx) (arg : Byte) (n : Nat) (reason : CloseCode),
    s.quiet = true → 3 < n → s.lookup id = some i → s.source? i = some c →
    ∀ cmd : Instr,
    (cmd = .closeOperation (id.setWidth 8) arg n ∧ c.state ≠ .closed
      ∨ cmd = .reseedOperation (id.setWidth 8) arg n ∧ (c.state.journals = true ∨ c.state = .fault)
      ∨ cmd = .closeFrameAtSource id c.epoch reason ∧ s.link.state = .up
        ∧ (c.state = .opening ∨ c.state = .seeding ∨ c.state = .live ∨ c.state = .resuming)) →
    ∃ t, exec cmd s = .next t ∧ t.arb = s.arb ∧ t.bus = s.bus
    ∧ (∀ a, s.acc.phase = .requesting a →
          (0 < slotsAgainst s.acc.resv i → t.acc = { s.acc with resv := none })
        ∧ (slotsAgainst s.acc.resv i = 0 → t.acc = s.acc))
    ∧ (∀ a w, s.acc.phase = .waitSlots a w → s.acc.resv = none →
          (w = i → t.acc = { phase := .requesting a, resv := none, holdTimer := none })
        ∧ (w ≠ i → t.acc = s.acc ∧ t.heldOfferDue = true))
    ∧ (∀ a j, s.acc.phase = .granted a (some j) → s.acc.resv = none →
          t.acc = { s.acc with phase := .granted a (if j.win = i then none else some j) })
    ∧ (s.seed.active = some i → s.seed.flight = none →
          s.seed.phase = .slotWait ∨ s.seed.phase = .portWait ∨ s.seed.phase = .endWait →
          (s.seed.queue.filter (· ≠ i) = [] →
              t.seed = { phase := .idle, active := none, chunkCount := 0, resv := none, flight := none, queue := [] })
        ∧ ∀ (j : WinIdx) (rest : List WinIdx), s.seed.queue.filter (· ≠ i) = j :: rest → (s.source? j).isSome = true →
          t.seed.active = some j ∧ t.seed.queue = rest ∧ t.seed.chunkCount = 0)
    ∧ (∀ f, s.seed.flight = some f → s.seed.phase = .reading → f.win = i →
          t.seed = { s.seed with
              active := if s.seed.active = some i then none else s.seed.active
              chunkCount := if s.seed.active = some i then 0 else s.seed.chunkCount
              resv := none, flight := some { f with fifth := false, orphan := true }
              queue := s.seed.queue.filter (· ≠ i) })
    ∧ (s.seed.active ≠ some i → (s.seed.flight.all fun f => f.win != i) = true → s.seed.phase ≠ .idle →
          t.seed = { s.seed with queue := s.seed.queue.filter (· ≠ i) })

/-- FENCE: refused by state, by a fence outstanding and by the reservation test, in that order; accepted it places the MARK
at the tail (R57). -/
def Obligations.FenceOperation : Prop :=
  ∀ (s : State) (id : StreamId) (i : WinIdx) (c : SourceCtx) (tag : Byte) (n : Nat),
    s.quiet = true → 3 < n → s.lookup id = some i → s.source? i = some c →
    (c.state.journals = false → exec (.fenceOperation (id.setWidth 8) tag n) s =
        .next { s with port := donePort 4 n [] .refusedState })
    ∧ (c.state.journals = true → c.fence.isSome = true → exec (.fenceOperation (id.setWidth 8) tag n) s =
          .next { s with port := donePort 4 n [] .refusedBusy })
    ∧ (c.state.journals = true → c.fence = none → s.reserveOk i 1 = false →
          exec (.fenceOperation (id.setWidth 8) tag n) s = .next { s with port := donePort 4 n [] .refusedNoSpace })
    ∧ (c.state.journals = true → c.fence = none → s.reserveOk i 1 = true →
          ∃ t, exec (.fenceOperation (id.setWidth 8) tag n) s = .next t
        ∧ t = { s.setRole i (.source { c with
            fence := some tag, nextSeq := c.nextSeq + 1#16
            queue := c.queue ++ [{ stream := id, seq := c.nextSeq, kind := .mark, pos := .whole, offset := 0#32,
                                   length := 0, data := some [], tag := some tag, status := .ready,
                                   sentBefore := false }] }) with
            port := donePort 4 n [] .done, ev := t.ev }
        ∧ t.freeCount + 1 = s.freeCount)

/-- PROMOTE and CLOSE of a sink stream: PROMOTE needs a consistent copy with no apply under operation; each leaves what its
rule says, and tells the partner while the link is UP (R141, R145, R146). That every apply chosen for the window and not
yet answered counts, whatever its epoch or context, is the model's choice (notes/assumptions/24.md). -/
def Obligations.SinkOperations : Prop :=
  ∀ (s : State) (id : StreamId) (i : WinIdx) (c : SinkCtx) (arg : Byte) (n : Nat),
    s.quiet = true → 3 < n → s.lookup id = some i → s.sink? i = some c →
    (c.state = .closed → exec (.sinkCloseOperation (id.setWidth 8) arg n) s =
        .next { s with port := donePort 4 n [] .refusedState })
    ∧ (c.state ≠ .closed → ∃ t, exec (.sinkCloseOperation (id.setWidth 8) arg n) s = .next t
        ∧ t.port = donePort 4 n [] .done
        ∧ t.sink? i = some { c with
            state := .closed, closeReason := .localClose, held := [], ackCount := 0, ackTimer := none,
            nakOutstanding := false }
        ∧ t.ackFlag id = none
        ∧ (s.link.state = .up → t.ctlSlot id = some { epoch := c.epoch, body := .close .fromLocal })
        ∧ (s.link.state ≠ .up → t.sched.ctl = s.sched.ctl) ∧ t.ev.notice = s.ev.notice
        ∧ ∀ j, j ≠ i → t.entry j = s.entry j)
    ∧ (c.state = .closed ∨ c.state = .seeding ∨ c.state = .suspended ∧ c.prior = .seeding →
          exec (.promoteOperation (id.setWidth 8) arg n) s = .next { s with port := donePort 4 n [] .refusedState })
    ∧ (c.state = .live ∨ c.state = .suspended ∧ c.prior = .live →
          ((s.apply.phase = .writing ∧ ∃ v, s.apply.served = some v ∧ v.win = i) →
              exec (.promoteOperation (id.setWidth 8) arg n) s = .next { s with port := donePort 4 n [] .refusedBusy })
        ∧ (¬ (s.apply.phase = .writing ∧ ∃ v, s.apply.served = some v ∧ v.win = i) →
              ∀ k : Nat, k = (c.held.filter (!·.underOp)).length →
              ∃ t, exec (.promoteOperation (id.setWidth 8) arg n) s = .next t ∧ t.port = donePort 4 n [] .done
            ∧ t.entry i = { s.entry i with
                role := .source (newSource c.epoch)
                promotion := some { epoch := c.epoch, lastApplied := c.expected - 1#16, discarded := k } }
            ∧ t.ackFlag id = none ∧ t.noticed id = true
            ∧ (s.link.state = .up → t.ctlSlot id =
                  some { epoch := c.epoch, body := .promoted (c.expected - 1#16) (BitVec.ofNat 8 k) })
            ∧ (s.link.state ≠ .up → t.sched.ctl = s.sched.ctl)
            ∧ ∀ j, j ≠ i → t.entry j = s.entry j))

/-- LINK_RESTART in each link state, and DEVICE_RESET, which only marks the soft reset as due (R89, R175, R176). -/
def Obligations.LinkRestartAndDeviceReset : Prop :=
  ∀ (s : State) (n : Nat), s.quiet = true → 0 < n →
    (s.link.state = .down → exec (.linkRestart n) s = .next { s with port := donePort 1 n [] .done })
    ∧ (s.settings.linkEnable = true → s.link.laneReady = true →
          (s.link.state = .training → exec (.linkRestart n) s = .next { s with
              port := donePort 1 n [] .done
              link := { s.link with heard := false, helloDue := true, helloTimer := some s.settings.helloInterval } })
        ∧ (s.link.state = .up → ∃ t, exec (.linkRestart n) s = .next t ∧ t.port = donePort 1 n [] .done
            ∧ t.link = { s.link with
                state := .training, heard := false, helloDue := true, helloTimer := some s.settings.helloInterval,
                silenceTimer := none, keepaliveTimer := none, keepaliveDue := false }
            ∧ t.sched = { s.sched with ctl := Vector.replicate 16 none, ack := Vector.replicate 16 none }
            ∧ t.settings = s.settings))
    ∧ exec (.deviceReset n) s = .next { s with port := { donePort 1 n [] .done with
        txn := some { count := n, command := 0x3C#8 }, resetDue := true } }

/-- The soft reset at the rise of SCS_N: contexts return to CLOSED with their epochs kept, the journal and the notice set
are emptied, the link starts again, the settings and masks stay, the lane carries what it carried, and a held write has its
ERROR whatever the master presents next (R21, R38, R62, R79, R101, R121, R144, R164, R176, R179). That a source context in
CLOSING takes the diverged flag although the link leaves UP in the same event is the model's choice
(notes/assumptions/23.md). SOFT_RESET with no reset due leaves the state as it is (the model's choice,
notes/assumptions/5.md). -/
def Obligations.SoftReset : Prop :=
  (∀ s : State, s.quiet = true → exec .softReset s = .next s)
    ∧ (∀ (s : State) (a : Access) (i : WinIdx), s.calm = true → s.port.resetDue = true →
          s.acc.phase = .waitSlots a i → ∃ t rs, exec .softReset s = .next t ∧ t.bus.presented = none
        ∧ t.bus.responses = rs ++ { ok := false, data := [] } :: s.bus.responses)
    ∧ ∀ s : State, s.calm = true → s.port.resetDue = true → s.bus.presented = none →
      ∃ t, exec .softReset s = .next t ∧ t.txLane = s.txLane
      ∧ (∀ i : WinIdx, t.entry i = { s.entry i with role := (t.entry i).role, promotion := none }
          ∧ ((s.entry i).role = .off → (t.entry i).role = .off)
          ∧ (∀ c, s.source? i = some c → t.source? i = some { newSource c.epoch with
              lastFence := match c.fence with
              | some tag => some (.abandoned, tag)
              | none => c.lastFence
              faultReason := c.faultReason, diverged := c.diverged || c.state != .closed })
          ∧ ∀ c, s.sink? i = some c → t.sink? i = some { newSink with
              epoch := c.epoch, closeReason := if c.state = .closed then c.closeReason else .localClose })
      ∧ t.freeCount = 256 ∧ t.settings = s.settings ∧ t.tickLength = s.tickLength ∧ t.arb = s.arb
      ∧ t.port.txn = none ∧ t.port.resetDue = false
      ∧ t.ev.unmasked = s.ev.unmasked ∧ t.ev.notice = 0#16 ∧ t.ev.ackMem = 0#13 ∧ t.ev.pending = t.conditions
      ∧ (s.settings.linkEnable = true → t.caused .linkDown = true)
      ∧ t.link.counters = zeroCounters ∧ t.link.heard = false
      ∧ t.link.state = (if s.settings.linkEnable ∧ s.link.laneReady then .training else .down)
      ∧ t.sched = { s.sched with
          ctl := Vector.replicate 16 none, ack := Vector.replicate 16 none, lastCtl := 15#4, lastAck := 15#4,
          lastRec := 15#4 }
      ∧ t.seed.active = none ∧ t.seed.queue = [] ∧ t.seed.resv = none
      ∧ (s.seed.phase = .reading → t.seed.phase = .reading ∧ (t.seed.flight.all (·.orphan)) = true)
      ∧ (s.seed.phase ≠ .reading → t.seed.phase = .idle)
      ∧ t.apply.last = 15#4
      ∧ (s.apply.phase = .writing → t.apply.phase = .writing ∧ t.apply.served = s.apply.served)
      ∧ (s.apply.phase ≠ .writing → t.apply.phase = .idle ∧ t.apply.served = none)
      ∧ (∀ a i, s.acc.phase = .waitSlots a i →
            t.acc = idleAccess ∧ t.bus.responses = { ok := false, data := [] } :: s.bus.responses)
      ∧ (∀ a, s.acc.phase = .requesting a → t.acc.phase = .requesting a ∧ t.acc.resv = none)
      ∧ ∀ a j, s.acc.phase = .granted a j → t.acc.phase = .granted a none

/-- A command byte that names no transaction executes nothing and is answered BAD_COMMAND; a transaction whose SCS_N rises
before its execution point executes nothing; a stream operation that names no stream or no context that takes it is
refused (R166, R167, R174). -/
def Obligations.NothingExecuted : Prop :=
  ∀ s : State, s.quiet = true →
    (∀ (command : Byte) (later : List Byte), isCommand command = false →
        exec (.badCommand command later) s = .next { s with port := donePort 1 (1 + later.length) [] .badCommand })
    ∧ (∀ (item : BitVec 16) (id : StreamId) (causes : BitVec 16) (n : Nat), n ≤ 2 →
          ∀ cmd ∈ [Instr.readItem item n, .streamStatusRead id n, .ackEvents causes n],
          exec cmd s = .next { s with port := earlyPort n })
    ∧ (∀ (item : BitVec 16) (i : WinIdx) (x : EntryItem) (v : Word) (n : Nat), n ≤ 6 →
          ∀ cmd ∈ [Instr.writeItem item v n, .windowEntryWrite i x v n, .eventMaskWrite v n, .linkEnableWrite v n,
                   .journalLowWrite v n, .ackEveryWrite v n, .tickDivisorWrite v n],
          exec cmd s = .next { s with port := earlyPort n })
    ∧ (∀ cmd ∈ [Instr.linkRestart 0, .deviceReset 0], exec cmd s = .next { s with port := earlyPort 0 })
    ∧ ∀ (id arg : Byte) (n : Nat),
      ∀ cmd ∈ [Instr.openOperation id arg n, .closeOperation id arg n, .sinkCloseOperation id arg n,
               .reseedOperation id arg n, .fenceOperation id arg n, .promoteOperation id arg n],
      (n ≤ 3 → exec cmd s = .next { s with port := earlyPort n })
      ∧ (3 < n → 15 < id.toNat → exec cmd s = .next { s with port := donePort 4 n [] .refusedRange })
      ∧ (3 < n → id.toNat ≤ 15 → s.lookup (id.setWidth 4) = none →
            exec cmd s = .next { s with port := donePort 4 n [] .refusedState })
      ∧ (3 < n → id.toNat ≤ 15 → ∀ i, s.lookup (id.setWidth 4) = some i →
            ((s.source? i).isSome = true ∧ cmd = .promoteOperation id arg n
              ∨ (s.sink? i).isSome = true ∧ (cmd = .openOperation id arg n ∨ cmd = .reseedOperation id arg n
                  ∨ cmd = .fenceOperation id arg n)) →
            exec cmd s = .next { s with port := donePort 4 n [] .refusedState })

/-! ### Headline statements -/

/-- Every frame the format allows is read back by the receive checker from the bytes it is sent as, every field whole
(R91, R92, R93). -/
def Obligations.FrameBytesReadBack : Prop :=
  ∀ f : Frame, f.formatOk = true → receiveCheck f.toBytes = .valid f

/-- What every step keeps of the settings, the arbiter and the window table: the settings stay in their ranges, the arbiter
ranks each requester once, the entries stay valid, and enabled windows neither overlap nor share a stream (R17, R22, R26,
R173). -/
def Obligations.TablesStayValid : Prop :=
  ∀ s t : State, step s = .next t →
    (s.settings.valid = true → t.settings.valid = true) ∧ (s.arb.ranks = true → t.arb.ranks = true)
    ∧ (s.windowsValid = true → t.windowsValid = true)

/-- What every step keeps of the link: its state, timers, due frames, slots and flags agree (R82, R85, R87, R88, R89). -/
def Obligations.LinkStaysValid : Prop :=
  ∀ s t : State, step s = .next t → s.linkValid = true → t.linkValid = true

/-- What every step keeps of the journal: records and reservations never exceed its 256 slots, and no stream its QUOTA
(R39, R44, R45). -/
def Obligations.JournalStaysWithinItsSlots : Prop :=
  ∀ s t : State, step s = .next t → s.windowsValid = true → s.journalValid = true → t.journalValid = true

/-- The conditions that every step keeps hold at reset. -/
def Obligations.ResetIsValid : Prop :=
  State.reset.settings.valid = true ∧ State.reset.arb.ranks = true ∧ State.reset.windowsValid = true
    ∧ State.reset.linkValid = true ∧ State.reset.journalValid = true ∧ State.reset.quiet = true
end

