-- ==== Sys2Proof/Laws/State.lean ====
section
/-! SUPPORT. What each update of the state does to each field: the window table's updates read back, and every field an
update leaves alone. A later proof cites these and unfolds no record update. -/

namespace Sys2Proof.Machine

variable (s : State) (i j : WinIdx) (e : Entry) (r : Role)

/-! ### Replacing an entry -/

@[simp] theorem setEntry_entry : (s.setEntry i e).entry j = if j = i then e else s.entry j := by
  simp only [State.entry, State.setEntry, Fin.getElem_fin, Vector.getElem_set, Fin.ext_iff, eq_comm]

theorem setEntry_entry_same : (s.setEntry i e).entry i = e := by simp

theorem setEntry_entry_ne {j : WinIdx} (h : j ≠ i) : (s.setEntry i e).entry j = s.entry j := by simp [h]

@[simp] theorem setEntry_pending : (s.setEntry i e).pending = s.pending := rfl
@[simp] theorem setEntry_resetLow : (s.setEntry i e).resetLow = s.resetLow := rfl
@[simp] theorem setEntry_bus : (s.setEntry i e).bus = s.bus := rfl
@[simp] theorem setEntry_acc : (s.setEntry i e).acc = s.acc := rfl
@[simp] theorem setEntry_arb : (s.setEntry i e).arb = s.arb := rfl
@[simp] theorem setEntry_seed : (s.setEntry i e).seed = s.seed := rfl
@[simp] theorem setEntry_apply : (s.setEntry i e).apply = s.apply := rfl
@[simp] theorem setEntry_link : (s.setEntry i e).link = s.link := rfl
@[simp] theorem setEntry_sched : (s.setEntry i e).sched = s.sched := rfl
@[simp] theorem setEntry_ev : (s.setEntry i e).ev = s.ev := rfl
@[simp] theorem setEntry_port : (s.setEntry i e).port = s.port := rfl
@[simp] theorem setEntry_settings : (s.setEntry i e).settings = s.settings := rfl
@[simp] theorem setEntry_tickLength : (s.setEntry i e).tickLength = s.tickLength := rfl
@[simp] theorem setEntry_offers : (s.setEntry i e).offers = s.offers := rfl

/-- Replacing an entry by itself changes nothing. -/
@[simp] theorem setEntry_self : s.setEntry i (s.entry i) = s := by
  simp [State.setEntry, State.entry]

/-- Of two replacements of one entry the later stands. -/
@[simp] theorem setEntry_setEntry (f : Entry) : (s.setEntry i e).setEntry i f = s.setEntry i f := by
  simp only [State.setEntry, State.mk.injEq, true_and, and_true]
  ext k hk
  simp only [Vector.getElem_set]
  split <;> rfl

/-- Two states with equal entries and equal other fields are equal. -/
theorem windows_ext {s t : State} (h : ∀ j, s.entry j = t.entry j) : s.windows = t.windows := by
  ext k hk
  exact h ⟨k, hk⟩

/-! ### Replacing a role -/

@[simp] theorem setRole_entry :
    (s.setRole i r).entry j = if j = i then { s.entry i with role := r } else s.entry j := by
  simp [State.setRole]

theorem setRole_entry_ne {j : WinIdx} (h : j ≠ i) : (s.setRole i r).entry j = s.entry j := by simp [h]

@[simp] theorem setRole_pending : (s.setRole i r).pending = s.pending := rfl
@[simp] theorem setRole_resetLow : (s.setRole i r).resetLow = s.resetLow := rfl
@[simp] theorem setRole_bus : (s.setRole i r).bus = s.bus := rfl
@[simp] theorem setRole_acc : (s.setRole i r).acc = s.acc := rfl
@[simp] theorem setRole_arb : (s.setRole i r).arb = s.arb := rfl
@[simp] theorem setRole_seed : (s.setRole i r).seed = s.seed := rfl
@[simp] theorem setRole_apply : (s.setRole i r).apply = s.apply := rfl
@[simp] theorem setRole_link : (s.setRole i r).link = s.link := rfl
@[simp] theorem setRole_sched : (s.setRole i r).sched = s.sched := rfl
@[simp] theorem setRole_ev : (s.setRole i r).ev = s.ev := rfl
@[simp] theorem setRole_port : (s.setRole i r).port = s.port := rfl
@[simp] theorem setRole_settings : (s.setRole i r).settings = s.settings := rfl
@[simp] theorem setRole_tickLength : (s.setRole i r).tickLength = s.tickLength := rfl
@[simp] theorem setRole_offers : (s.setRole i r).offers = s.offers := rfl

@[simp] theorem setRole_setRole (q : Role) : (s.setRole i r).setRole i q = s.setRole i q := by
  simp [State.setRole]

/-! ### The context of a window -/

theorem source?_eq_some {s : State} {i : WinIdx} {c : SourceCtx} :
    s.source? i = some c ↔ (s.entry i).role = .source c := by
  unfold State.source?; cases (s.entry i).role <;> simp

theorem sink?_eq_some {s : State} {i : WinIdx} {c : SinkCtx} :
    s.sink? i = some c ↔ (s.entry i).role = .sink c := by
  unfold State.sink?; cases (s.entry i).role <;> simp

/-- A context depends on its entry alone. -/
theorem source?_congr {s t : State} {i : WinIdx} (h : t.entry i = s.entry i) : t.source? i = s.source? i := by
  simp [State.source?, h]

theorem sink?_congr {s t : State} {i : WinIdx} (h : t.entry i = s.entry i) : t.sink? i = s.sink? i := by
  simp [State.sink?, h]

/-- A window with a source context has no sink context. -/
theorem sink?_of_source? {s : State} {i : WinIdx} {c : SourceCtx} (h : s.source? i = some c) : s.sink? i = none := by
  rw [source?_eq_some] at h; simp [State.sink?, h]

theorem source?_of_sink? {s : State} {i : WinIdx} {c : SinkCtx} (h : s.sink? i = some c) : s.source? i = none := by
  rw [sink?_eq_some] at h; simp [State.source?, h]

theorem setRole_source? : (s.setRole i r).source? j =
    if j = i then (match r with | .source c => some c | _ => none) else s.source? j := by
  by_cases h : j = i
  · subst h; cases r <;> simp [State.source?]
  · simp [State.source?, h]

theorem setRole_sink? : (s.setRole i r).sink? j =
    if j = i then (match r with | .sink c => some c | _ => none) else s.sink? j := by
  by_cases h : j = i
  · subst h; cases r <;> simp [State.sink?]
  · simp [State.sink?, h]

/-! ### Changing a context -/

variable (f : SourceCtx → SourceCtx) (g : SinkCtx → SinkCtx)

/-- Where the context is known, a change of it replaces the role. -/
theorem modSource_some {s : State} {i : WinIdx} {c : SourceCtx} (h : s.source? i = some c) :
    s.modSource i f = s.setRole i (.source (f c)) := by
  simp [State.modSource, h]

theorem modSource_none {s : State} {i : WinIdx} (h : s.source? i = none) : s.modSource i f = s := by
  simp [State.modSource, h]

theorem modSink_some {s : State} {i : WinIdx} {c : SinkCtx} (h : s.sink? i = some c) :
    s.modSink i g = s.setRole i (.sink (g c)) := by
  simp [State.modSink, h]

theorem modSink_none {s : State} {i : WinIdx} (h : s.sink? i = none) : s.modSink i g = s := by
  simp [State.modSink, h]

@[simp] theorem modSource_pending : (s.modSource i f).pending = s.pending := by unfold State.modSource; split <;> rfl
@[simp] theorem modSource_resetLow : (s.modSource i f).resetLow = s.resetLow := by unfold State.modSource; split <;> rfl
@[simp] theorem modSource_bus : (s.modSource i f).bus = s.bus := by unfold State.modSource; split <;> rfl
@[simp] theorem modSource_acc : (s.modSource i f).acc = s.acc := by unfold State.modSource; split <;> rfl
@[simp] theorem modSource_arb : (s.modSource i f).arb = s.arb := by unfold State.modSource; split <;> rfl
@[simp] theorem modSource_seed : (s.modSource i f).seed = s.seed := by unfold State.modSource; split <;> rfl
@[simp] theorem modSource_apply : (s.modSource i f).apply = s.apply := by unfold State.modSource; split <;> rfl
@[simp] theorem modSource_link : (s.modSource i f).link = s.link := by unfold State.modSource; split <;> rfl
@[simp] theorem modSource_sched : (s.modSource i f).sched = s.sched := by unfold State.modSource; split <;> rfl
@[simp] theorem modSource_ev : (s.modSource i f).ev = s.ev := by unfold State.modSource; split <;> rfl
@[simp] theorem modSource_port : (s.modSource i f).port = s.port := by unfold State.modSource; split <;> rfl
@[simp] theorem modSource_settings : (s.modSource i f).settings = s.settings := by unfold State.modSource; split <;> rfl
@[simp] theorem modSource_tickLength : (s.modSource i f).tickLength = s.tickLength := by
  unfold State.modSource; split <;> rfl
@[simp] theorem modSource_offers : (s.modSource i f).offers = s.offers := by unfold State.modSource; split <;> rfl

@[simp] theorem modSource_source? :
    (s.modSource i f).source? j = if j = i then (s.source? i).map f else s.source? j := by
  unfold State.modSource
  cases h : s.source? i with
  | none => by_cases hj : j = i <;> simp [hj, h]
  | some c => by_cases hj : j = i <;> simp [setRole_source?, hj]

@[simp] theorem modSource_sink? : (s.modSource i f).sink? j = s.sink? j := by
  unfold State.modSource
  cases h : s.source? i with
  | none => rfl
  | some c => by_cases hj : j = i <;> simp [setRole_sink?, hj, sink?_of_source? h]

theorem modSource_entry_ne {j : WinIdx} (h : j ≠ i) : (s.modSource i f).entry j = s.entry j := by
  unfold State.modSource; split <;> simp [h]

@[simp] theorem modSink_pending : (s.modSink i g).pending = s.pending := by unfold State.modSink; split <;> rfl
@[simp] theorem modSink_resetLow : (s.modSink i g).resetLow = s.resetLow := by unfold State.modSink; split <;> rfl
@[simp] theorem modSink_bus : (s.modSink i g).bus = s.bus := by unfold State.modSink; split <;> rfl
@[simp] theorem modSink_acc : (s.modSink i g).acc = s.acc := by unfold State.modSink; split <;> rfl
@[simp] theorem modSink_arb : (s.modSink i g).arb = s.arb := by unfold State.modSink; split <;> rfl
@[simp] theorem modSink_seed : (s.modSink i g).seed = s.seed := by unfold State.modSink; split <;> rfl
@[simp] theorem modSink_apply : (s.modSink i g).apply = s.apply := by unfold State.modSink; split <;> rfl
@[simp] theorem modSink_link : (s.modSink i g).link = s.link := by unfold State.modSink; split <;> rfl
@[simp] theorem modSink_sched : (s.modSink i g).sched = s.sched := by unfold State.modSink; split <;> rfl
@[simp] theorem modSink_ev : (s.modSink i g).ev = s.ev := by unfold State.modSink; split <;> rfl
@[simp] theorem modSink_port : (s.modSink i g).port = s.port := by unfold State.modSink; split <;> rfl
@[simp] theorem modSink_settings : (s.modSink i g).settings = s.settings := by unfold State.modSink; split <;> rfl
@[simp] theorem modSink_tickLength : (s.modSink i g).tickLength = s.tickLength := by unfold State.modSink; split <;> rfl
@[simp] theorem modSink_offers : (s.modSink i g).offers = s.offers := by unfold State.modSink; split <;> rfl

@[simp] theorem modSink_sink? : (s.modSink i g).sink? j = if j = i then (s.sink? i).map g else s.sink? j := by
  unfold State.modSink
  cases h : s.sink? i with
  | none => by_cases hj : j = i <;> simp [hj, h]
  | some c => by_cases hj : j = i <;> simp [setRole_sink?, hj]

@[simp] theorem modSink_source? : (s.modSink i g).source? j = s.source? j := by
  unfold State.modSink
  cases h : s.sink? i with
  | none => rfl
  | some c => by_cases hj : j = i <;> simp [setRole_source?, hj, source?_of_sink? h]

theorem modSink_entry_ne {j : WinIdx} (h : j ≠ i) : (s.modSink i g).entry j = s.entry j := by
  unfold State.modSink; split <;> simp [h]

/-! ### Updates outside the window table -/

variable (id id' : StreamId) (x : Option CtlFrame) (y : Option AckFlag) (l : Link → Link)
  (k : LinkCounters → LinkCounters) (c : Cause)

@[simp] theorem raise_entry : (raise c s).entry j = s.entry j := rfl
@[simp] theorem raise_ev : (raise c s).ev = s.ev.raise c := rfl
@[simp] theorem addNotice_entry : (addNotice id s).entry j = s.entry j := rfl
@[simp] theorem addNotice_ev : (addNotice id s).ev = s.ev.addNotice id := rfl
@[simp] theorem noticeWin_entry : (noticeWin i s).entry j = s.entry j := rfl
@[simp] theorem noticeWin_ev : (noticeWin i s).ev = s.ev.addNotice (s.entry i).stream := rfl
@[simp] theorem release_entry : (release s).entry j = s.entry j := rfl
@[simp] theorem release_offers : (release s).offers = { held := true, seed := true } := rfl
@[simp] theorem modLink_entry : (modLink l s).entry j = s.entry j := rfl
@[simp] theorem modLink_link : (modLink l s).link = l s.link := rfl
@[simp] theorem modCounters_entry : (modCounters k s).entry j = s.entry j := rfl
@[simp] theorem modCounters_link : (modCounters k s).link = { s.link with counters := k s.link.counters } := rfl
@[simp] theorem setCtlSlot_entry : (setCtlSlot id x s).entry j = s.entry j := rfl
@[simp] theorem setAckFlag_entry : (setAckFlag id y s).entry j = s.entry j := rfl

theorem slotIdx_inj {a b : StreamId} : slotIdx a = slotIdx b ↔ a = b := by
  simp [slotIdx, Fin.ext_iff, BitVec.toNat_inj]

@[simp] theorem setCtlSlot_ctlSlot :
    (setCtlSlot id x s).ctlSlot id' = if id' = id then x else s.ctlSlot id' := by
  have h : ((slotIdx id : Nat) = slotIdx id') ↔ id' = id := by
    rw [← Fin.ext_iff, slotIdx_inj]; exact eq_comm
  simp [State.ctlSlot, setCtlSlot, Vector.getElem_set, h]

@[simp] theorem setCtlSlot_ackFlag : (setCtlSlot id x s).ackFlag id' = s.ackFlag id' := rfl
@[simp] theorem setAckFlag_ctlSlot : (setAckFlag id y s).ctlSlot id' = s.ctlSlot id' := rfl

@[simp] theorem setAckFlag_ackFlag :
    (setAckFlag id y s).ackFlag id' = if id' = id then y else s.ackFlag id' := by
  have h : ((slotIdx id : Nat) = slotIdx id') ↔ id' = id := by
    rw [← Fin.ext_iff, slotIdx_inj]; exact eq_comm
  simp [State.ackFlag, setAckFlag, Vector.getElem_set, h]

@[simp] theorem rotate_entry (q : Requester) : (rotate q s).entry j = s.entry j := rfl
@[simp] theorem beginOp_entry (op : MemOp) : (beginOp op s).entry j = s.entry j := rfl
@[simp] theorem freePort_entry : (freePort s).entry j = s.entry j := rfl

/-! ### Lookups -/

/-- What a lookup by stream identifier finds: an enabled entry that carries it. -/
theorem lookup_some {s : State} {id : StreamId} {i : WinIdx} (h : s.lookup id = some i) :
    (s.entry i).enabled = true ∧ (s.entry i).stream = id := by
  have := List.find?_some h
  simpa using this

/-- What the decode of an address finds: an enabled entry that contains it. -/
theorem decode_some {s : State} {addr : Word} {i : WinIdx} (h : s.decode addr = some i) :
    (s.entry i).enabled = true ∧ (s.entry i).contains addr = true := by
  have := List.find?_some h
  simpa using this

/-- The lookup depends on which entries are enabled and on their streams. -/
theorem lookup_congr {s t : State} (h : ∀ j, (t.entry j).enabled = (s.entry j).enabled ∧
    (t.entry j).stream = (s.entry j).stream) (id : StreamId) : t.lookup id = s.lookup id := by
  simp [State.lookup, h]

/-- The decode depends on which entries are enabled and on their ranges. -/
theorem decode_congr {s t : State} (h : ∀ j, (t.entry j).enabled = (s.entry j).enabled ∧
    (t.entry j).base = (s.entry j).base ∧ (t.entry j).length = (s.entry j).length) (addr : Word) :
    t.decode addr = s.decode addr := by
  simp [State.decode, Entry.contains, h]

/-- Every window index is in the list of all. -/
theorem mem_allWindows (i : WinIdx) : i ∈ allWindows := by
  revert i; decide

end Sys2Proof.Machine
end

