-- ==== Sys2Proof/Laws/StreamLocal.lean ====
section
/-! SUPPORT. What an operation of the source or sink stream controller on the stream of one window can touch: `StreamLocal`
says it once for both sides, `SourceLocal` and `SinkLocal` add what each side leaves alone. They compose, and each shared
operation of Source.lean and Sink.lean has its lemma here. -/

namespace Sys2Proof.Machine

/-- What no stream operation on window `i` touches: the queue, the pins, the bus, the arbiter, the link but its counters,
the port, the settings, the frame in transmission, the masks and conditions, the other windows, the configuration of
entry `i`, and the slots and flags of other streams. Pending latches are only set. -/
structure StreamLocal (i : WinIdx) (s t : State) : Prop where
  pending : t.pending = s.pending
  resetLow : t.resetLow = s.resetLow
  bus : t.bus = s.bus
  arb : t.arb = s.arb
  link : t.link = { s.link with counters := t.link.counters }
  port : t.port = s.port
  settings : t.settings = s.settings
  tickLength : t.tickLength = s.tickLength
  sched : t.sched = { s.sched with ctl := t.sched.ctl, ack := t.sched.ack }
  ev : t.ev.cond = s.ev.cond ∧ t.ev.unmasked = s.ev.unmasked ∧ t.ev.ackMem = s.ev.ackMem
  raised : s.ev.pending &&& t.ev.pending = s.ev.pending
  noticed : s.ev.notice &&& t.ev.notice = s.ev.notice
  others : ∀ j, j ≠ i → t.entry j = s.entry j
  config : (t.entry i).base = (s.entry i).base ∧ (t.entry i).length = (s.entry i).length
    ∧ (t.entry i).stream = (s.entry i).stream ∧ (t.entry i).policy = (s.entry i).policy
    ∧ (t.entry i).quota = (s.entry i).quota ∧ (t.entry i).readGuard = (s.entry i).readGuard
    ∧ (t.entry i).yieldOn = (s.entry i).yieldOn ∧ (t.entry i).enabled = (s.entry i).enabled
  slots : ∀ id, id ≠ (s.entry i).stream → t.ctlSlot id = s.ctlSlot id ∧ t.ackFlag id = s.ackFlag id

/-- A source operation leaves the apply engine and the acknowledgement flags alone too. -/
structure SourceLocal (i : WinIdx) (s t : State) : Prop extends StreamLocal i s t where
  apply : t.apply = s.apply
  ack : t.sched.ack = s.sched.ack

/-- A sink operation leaves the access unit, the seed engine and the offers alone too. -/
structure SinkLocal (i : WinIdx) (s t : State) : Prop extends StreamLocal i s t where
  acc : t.acc = s.acc
  seed : t.seed = s.seed
  offers : t.offers = s.offers

theorem StreamLocal.refl (i : WinIdx) (s : State) : StreamLocal i s s := by
  constructor <;> simp

theorem SourceLocal.refl (i : WinIdx) (s : State) : SourceLocal i s s :=
  { StreamLocal.refl i s with apply := rfl, ack := rfl }

theorem SinkLocal.refl (i : WinIdx) (s : State) : SinkLocal i s s :=
  { StreamLocal.refl i s with acc := rfl, seed := rfl, offers := rfl }

theorem and_trans {w : Nat} {a b c : BitVec w} (h : a &&& b = a) (k : b &&& c = b) : a &&& c = a := by
  rw [← h, BitVec.and_assoc, k]

theorem StreamLocal.trans {i : WinIdx} {s t u : State} (h : StreamLocal i s t) (k : StreamLocal i t u) :
    StreamLocal i s u where
  pending := k.pending.trans h.pending
  resetLow := k.resetLow.trans h.resetLow
  bus := k.bus.trans h.bus
  arb := k.arb.trans h.arb
  link := by rw [k.link, h.link]
  port := k.port.trans h.port
  settings := k.settings.trans h.settings
  tickLength := k.tickLength.trans h.tickLength
  sched := by rw [k.sched, h.sched]
  ev := ⟨k.ev.1.trans h.ev.1, k.ev.2.1.trans h.ev.2.1, k.ev.2.2.trans h.ev.2.2⟩
  raised := and_trans h.raised k.raised
  noticed := and_trans h.noticed k.noticed
  others j hj := (k.others j hj).trans (h.others j hj)
  config := by
    obtain ⟨a, b, c, d, e, f, g, p⟩ := h.config
    obtain ⟨a', b', c', d', e', f', g', p'⟩ := k.config
    exact ⟨a'.trans a, b'.trans b, c'.trans c, d'.trans d, e'.trans e, f'.trans f, g'.trans g, p'.trans p⟩
  slots id hid := by
    have hid' : id ≠ (t.entry i).stream := by rw [h.config.2.2.1]; exact hid
    exact ⟨(k.slots id hid').1.trans (h.slots id hid).1, (k.slots id hid').2.trans (h.slots id hid).2⟩

theorem SourceLocal.trans {i : WinIdx} {s t u : State} (h : SourceLocal i s t) (k : SourceLocal i t u) :
    SourceLocal i s u :=
  { h.toStreamLocal.trans k.toStreamLocal with apply := k.apply.trans h.apply, ack := k.ack.trans h.ack }

theorem SinkLocal.trans {i : WinIdx} {s t u : State} (h : SinkLocal i s t) (k : SinkLocal i t u) :
    SinkLocal i s u :=
  { h.toStreamLocal.trans k.toStreamLocal with
    acc := k.acc.trans h.acc, seed := k.seed.trans h.seed, offers := k.offers.trans h.offers }

/-- The lookup by identifier survives every stream operation. -/
theorem StreamLocal.lookup {i : WinIdx} {s t : State} (h : StreamLocal i s t) (id : StreamId) :
    t.lookup id = s.lookup id := by
  apply lookup_congr
  intro j
  by_cases hj : j = i
  · subst hj; exact ⟨h.config.2.2.2.2.2.2.2, h.config.2.2.1⟩
  · rw [h.others j hj]; exact ⟨rfl, rfl⟩

/-- The decode of addresses survives every stream operation. -/
theorem StreamLocal.decode {i : WinIdx} {s t : State} (h : StreamLocal i s t) (addr : Word) :
    t.decode addr = s.decode addr := by
  apply decode_congr
  intro j
  by_cases hj : j = i
  · subst hj; exact ⟨h.config.2.2.2.2.2.2.2, h.config.1, h.config.2.1⟩
  · rw [h.others j hj]; exact ⟨rfl, rfl, rfl⟩

/-- A latch once set stays set through a stream operation. -/
theorem StreamLocal.pending_bit {i : WinIdx} {s t : State} (h : StreamLocal i s t) {b : BitVec 13}
    (hb : s.ev.pending &&& b = b) : t.ev.pending &&& b = b := by
  have : b &&& t.ev.pending = b := and_trans (by rw [BitVec.and_comm]; exact hb) h.raised
  rw [BitVec.and_comm]; exact this

/-! ### The smallest operations -/

variable {i : WinIdx} {s : State}

theorem and_or_self {w : Nat} (a b : BitVec w) : a &&& (a ||| b) = a := by
  ext k hk; simp; intro h; simp [h]

theorem raise_sourceLocal (c : Cause) : SourceLocal i s (raise c s) := by
  refine { (?_ : StreamLocal i s (raise c s)) with apply := rfl, ack := rfl }
  constructor <;> simp [raise, EventUnit.raise, and_or_self, State.entry, State.ctlSlot, State.ackFlag]

theorem raise_sinkLocal (c : Cause) : SinkLocal i s (raise c s) :=
  { (raise_sourceLocal (i := i) (s := s) c).toStreamLocal with acc := rfl, seed := rfl, offers := rfl }

theorem noticeWin_sourceLocal (k : WinIdx) : SourceLocal i s (noticeWin k s) := by
  refine { (?_ : StreamLocal i s (noticeWin k s)) with apply := rfl, ack := rfl }
  constructor <;>
    simp [noticeWin, addNotice, EventUnit.addNotice, and_or_self, State.entry, State.ctlSlot, State.ackFlag]

theorem noticeWin_sinkLocal (k : WinIdx) : SinkLocal i s (noticeWin k s) :=
  { (noticeWin_sourceLocal (i := i) (s := s) k).toStreamLocal with acc := rfl, seed := rfl, offers := rfl }

theorem release_sourceLocal : SourceLocal i s (release s) := by
  refine { (?_ : StreamLocal i s (release s)) with apply := rfl, ack := rfl }
  constructor <;> simp [release, State.entry, State.ctlSlot, State.ackFlag]

/-- A change of the access unit, the seed engine and the offers. -/
theorem holders_sourceLocal (a : AccessUnit) (e : SeedEngine) (o : Offers) :
    SourceLocal i s { s with acc := a, seed := e, offers := o } := by
  refine { (?_ : StreamLocal i s { s with acc := a, seed := e, offers := o }) with apply := rfl, ack := rfl }
  constructor <;> simp [State.entry, State.ctlSlot, State.ackFlag]

theorem countStale_sourceLocal : SourceLocal i s (countStale s) := by
  refine { (?_ : StreamLocal i s (countStale s)) with apply := rfl, ack := rfl }
  constructor <;> simp [countStale, modCounters, modLink, State.entry, State.ctlSlot, State.ackFlag]

theorem countStale_sinkLocal : SinkLocal i s (countStale s) :=
  { (countStale_sourceLocal (i := i) (s := s)).toStreamLocal with acc := rfl, seed := rfl, offers := rfl }

/-- Replacing the role of an enabled entry by an enabled one. -/
theorem setRole_streamLocal {r : Role}
    (h : Entry.enabled { s.entry i with role := r } = (s.entry i).enabled) : StreamLocal i s (s.setRole i r) := by
  constructor <;> simp [State.ctlSlot, State.ackFlag]
  · intro j hj; simp [hj]
  · exact h

theorem modSource_sourceLocal (f : SourceCtx → SourceCtx) : SourceLocal i s (s.modSource i f) := by
  refine { (?_ : StreamLocal i s (s.modSource i f)) with apply := by simp, ack := by simp }
  cases h : s.source? i with
  | none => rw [modSource_none f h]; exact StreamLocal.refl i s
  | some c =>
      rw [modSource_some f h]
      rw [source?_eq_some] at h
      exact setRole_streamLocal (by simp [Entry.enabled, h])

theorem modSink_sinkLocal (f : SinkCtx → SinkCtx) : SinkLocal i s (s.modSink i f) := by
  refine { (?_ : StreamLocal i s (s.modSink i f)) with acc := by simp, seed := by simp, offers := by simp }
  cases h : s.sink? i with
  | none => rw [modSink_none f h]; exact StreamLocal.refl i s
  | some c =>
      rw [modSink_some f h]
      rw [sink?_eq_some] at h
      exact setRole_streamLocal (by simp [Entry.enabled, h])

theorem setCtlSlot_sourceLocal (f : Option CtlFrame) : SourceLocal i s (setCtlSlot (s.entry i).stream f s) := by
  refine { (?_ : StreamLocal i s (setCtlSlot (s.entry i).stream f s)) with apply := rfl, ack := rfl }
  constructor <;> first
    | rfl | exact ⟨rfl, rfl, rfl⟩ | exact ⟨rfl, rfl, rfl, rfl, rfl, rfl, rfl, rfl⟩ | (intro id hid; simp [hid])
    | simp [setCtlSlot]

theorem place_sourceLocal (epoch : Epoch) (b : Body) : SourceLocal i s (place (s.entry i).stream epoch b s) := by
  unfold place; split
  · exact setCtlSlot_sourceLocal _
  · exact SourceLocal.refl i s

theorem place_sourceLocal_of {id : StreamId} (h : (s.entry i).stream = id) (epoch : Epoch) (b : Body) :
    SourceLocal i s (place id epoch b s) :=
  h ▸ place_sourceLocal epoch b

theorem setCtlSlot_sinkLocal (f : Option CtlFrame) : SinkLocal i s (setCtlSlot (s.entry i).stream f s) :=
  { (setCtlSlot_sourceLocal (i := i) (s := s) f).toStreamLocal with acc := rfl, seed := rfl, offers := rfl }

theorem place_sinkLocal (epoch : Epoch) (b : Body) : SinkLocal i s (place (s.entry i).stream epoch b s) := by
  unfold place; split
  · exact setCtlSlot_sinkLocal _
  · exact SinkLocal.refl i s

theorem place_sinkLocal_of {id : StreamId} (h : (s.entry i).stream = id) (epoch : Epoch) (b : Body) :
    SinkLocal i s (place id epoch b s) :=
  h ▸ place_sinkLocal epoch b

theorem setAckFlag_sinkLocal (f : Option AckFlag) : SinkLocal i s (setAckFlag (s.entry i).stream f s) := by
  refine { (?_ : StreamLocal i s (setAckFlag (s.entry i).stream f s)) with acc := rfl, seed := rfl, offers := rfl }
  constructor <;> first
    | rfl | exact ⟨rfl, rfl, rfl⟩ | exact ⟨rfl, rfl, rfl, rfl, rfl, rfl, rfl, rfl⟩ | (intro id hid; simp [hid])
    | simp [setAckFlag]

theorem flag_sinkLocal (f : AckFlag) : SinkLocal i s (flag (s.entry i).stream f s) := by
  unfold flag; split
  · exact setAckFlag_sinkLocal _
  · exact SinkLocal.refl i s

end Sys2Proof.Machine
end

