-- ==== Sys2Proof/Laws/Sink.lean ====
section
/-! SUPPORT. The shared operations of the sink side: what each can touch (`SinkLocal`), and how few markers one apply test
applies. -/

namespace Sys2Proof.Machine

variable {i : WinIdx} {s : State}

/-! ### Acknowledgement -/

theorem setAckFlag_sinkLocal_of {id : StreamId} (h : (s.entry i).stream = id) (f : Option AckFlag) :
    SinkLocal i s (setAckFlag id f s) :=
  h ▸ setAckFlag_sinkLocal f

theorem flag_sinkLocal_of {id : StreamId} (h : (s.entry i).stream = id) (f : AckFlag) :
    SinkLocal i s (flag id f s) :=
  h ▸ flag_sinkLocal f

theorem flagAck_sinkLocal (c : SinkCtx) : SinkLocal i s (flagAck (s.streamOf i) c s) := by
  unfold flagAck
  split
  · split
    · exact SinkLocal.refl i s
    · exact flag_sinkLocal _
  · exact flag_sinkLocal _

theorem refreshAck_sinkLocal (c : SinkCtx) : SinkLocal i s (refreshAck (s.streamOf i) c s) := by
  unfold refreshAck
  split
  · split
    · exact SinkLocal.refl i s
    · exact setAckFlag_sinkLocal _
  · exact SinkLocal.refl i s

theorem nakOnce_sinkLocal : SinkLocal i s (nakOnce i s) := by
  unfold nakOnce
  split
  · rename_i c _
    split
    · exact SinkLocal.refl i s
    · have h := modSink_sinkLocal (i := i) (s := s) fun c => { c with nakOutstanding := true }
      exact h.trans (flag_sinkLocal_of h.config.2.2.1 _)
  · exact SinkLocal.refl i s

/-! ### Applying -/

theorem applyMarker_sinkLocal (r : RecBody) : SinkLocal i s (applyMarker i r s) := by
  have ack : ∀ t, SinkLocal i s t → SinkLocal i s (match t.sink? i with
      | some c => flagAck (t.streamOf i) c t
      | none => t) := by
    intro t h
    split
    · exact h.trans (flagAck_sinkLocal _)
    · exact h
  have live : ∀ t, SinkLocal i s t → SinkLocal i s (match t.sink? i with
      | some c =>
          if r.kind = .seedEnd ∧ c.state = .seeding then
            raise .streamLive (noticeWin i (t.modSink i fun c => { c with state := .live }))
          else t
      | none => t) := by
    intro t h
    split
    · split
      · exact h.trans (((modSink_sinkLocal _).trans (noticeWin_sinkLocal i)).trans (raise_sinkLocal _))
      · exact h
    · exact h
  exact live _ (ack _ (modSink_sinkLocal _))

theorem discardUnusable_sinkLocal : SinkLocal i s (discardUnusable i s) := by
  unfold discardUnusable
  exact ((modSink_sinkLocal _).trans countStale_sinkLocal).trans nakOnce_sinkLocal

theorem applyTest_sinkLocal (n : Nat) : SinkLocal i s (applyTest i n s) := by
  induction n generalizing s with
  | zero => exact SinkLocal.refl i s
  | succ n ih =>
      unfold applyTest
      split
      · split
        · exact (applyMarker_sinkLocal _).trans ih
        · exact discardUnusable_sinkLocal
        · exact SinkLocal.refl i s
      · exact SinkLocal.refl i s

/-- The apply engine alone changes. -/
theorem applyEngine_sinkLocal (a : ApplyEngine) : SinkLocal i s { s with apply := a } := by
  refine { (?_ : StreamLocal i s { s with apply := a }) with acc := rfl, seed := rfl, offers := rfl }
  constructor <;> first
    | rfl | exact ⟨rfl, rfl, rfl⟩ | exact ⟨rfl, rfl, rfl, rfl, rfl, rfl, rfl, rfl⟩ | (intros; rfl)
    | (intros; exact ⟨rfl, rfl⟩) | simp

theorem withdrawApply_sinkLocal (k : WinIdx) : SinkLocal i s (withdrawApply k s) := by
  unfold withdrawApply
  split
  · exact applyEngine_sinkLocal _
  · exact SinkLocal.refl i s

theorem completeApply_sinkLocal (v : Served) (h : v.win = i) : SinkLocal i s (completeApply v s) := by
  subst h
  unfold completeApply
  dsimp only
  generalize hm : s.modSink v.win _ = t
  have h : SinkLocal v.win s t := hm ▸ modSink_sinkLocal _
  split
  · rename_i b c _ _
    split
    · have h2 := h.trans (refreshAck_sinkLocal (i := v.win) (s := t) c)
      have h3 : SinkLocal v.win s
          (if b.ackCount < (refreshAck (t.streamOf v.win) c t).settings.ackEvery
              ∧ c.ackCount = (refreshAck (t.streamOf v.win) c t).settings.ackEvery then
            flagAck ((refreshAck (t.streamOf v.win) c t).streamOf v.win) c (refreshAck (t.streamOf v.win) c t)
          else refreshAck (t.streamOf v.win) c t) := by
        split
        · exact h2.trans (flagAck_sinkLocal _)
        · exact h2
      exact h3.trans (applyTest_sinkLocal 5)
    · exact h
  · exact h

/-! ### Closing, pairing and frames -/

theorem closeSinkCtx_sinkLocal (r : CloseReason) : SinkLocal i s (closeSinkCtx i r s) := by
  unfold closeSinkCtx
  exact ((modSink_sinkLocal _).trans (setAckFlag_sinkLocal _)).trans (withdrawApply_sinkLocal i)

theorem applyErrorClose_sinkLocal : SinkLocal i s (applyErrorClose i s) := by
  unfold applyErrorClose
  split
  · have h := ((closeSinkCtx_sinkLocal (i := i) (s := s) .applyError).trans (noticeWin_sinkLocal i)).trans
      (raise_sinkLocal .streamClosed)
    dsimp only
    split
    · exact h
    · exact h.trans (place_sinkLocal _ _)
  · exact SinkLocal.refl i s

theorem sinkLinkLeft_sinkLocal : SinkLocal i s (sinkLinkLeft s i) := by
  unfold sinkLinkLeft
  split
  · split <;> first
      | exact (modSink_sinkLocal _).trans (withdrawApply_sinkLocal i) | exact SinkLocal.refl i s
  · exact SinkLocal.refl i s

theorem newPairing_sinkLocal (epoch : Epoch) : SinkLocal i s (newPairing i epoch s) := by
  unfold newPairing
  exact (((modSink_sinkLocal _).trans (setAckFlag_sinkLocal _)).trans (withdrawApply_sinkLocal i)).trans
    (place_sinkLocal _ _)

theorem giveContinue_sinkLocal (c : SinkCtx) : SinkLocal i s (giveContinue i c s) := by
  unfold giveContinue
  exact (((place_sinkLocal _ _).trans (modSink_sinkLocal _)).trans (setAckFlag_sinkLocal _)).trans
    (withdrawApply_sinkLocal i)

theorem holdRecord_sinkLocal (c : SinkCtx) (r : RecBody) : SinkLocal i s (holdRecord i c r s) := by
  unfold holdRecord
  dsimp only
  split
  · exact ((modSink_sinkLocal _).trans nakOnce_sinkLocal).trans (applyTest_sinkLocal 5)
  · exact (modSink_sinkLocal _).trans (applyTest_sinkLocal 5)

theorem admission_sinkLocal (c : SinkCtx) (r : RecBody) : SinkLocal i s (admission i c r s) := by
  unfold admission
  split
  · exact countStale_sinkLocal
  · split
    · split
      · exact modSink_sinkLocal _
      · exact holdRecord_sinkLocal c r
    · split
      · have h := modSink_sinkLocal (i := i) (s := s) fun c => { c with duplicates := c.duplicates + 1#32 }
        have hf := flagAck_sinkLocal (i := i) (s := s.modSink i fun c => { c with duplicates := c.duplicates + 1#32 }) c
        rw [show (s.modSink i fun c => { c with duplicates := c.duplicates + 1#32 }).streamOf i = s.streamOf i from
          h.config.2.2.1] at hf
        exact h.trans hf
      · exact (modSink_sinkLocal _).trans nakOnce_sinkLocal

theorem recordAtCtx_sinkLocal (c : SinkCtx) (epoch : Epoch) (r : RecBody) :
    SinkLocal i s (recordAtCtx i c epoch r s) := by
  unfold recordAtCtx
  split
  · exact countStale_sinkLocal
  · dsimp only
    have h : SinkLocal i s
        (if c.state = .suspended then s.modSink i fun c => { c with state := c.prior.sinkState } else s) := by
      split
      · exact modSink_sinkLocal _
      · exact SinkLocal.refl i s
    split
    · exact h.trans (admission_sinkLocal _ r)
    · exact h

theorem ackExpired_sinkLocal (c : SinkCtx) : SinkLocal i s (ackExpired i c s) := by
  unfold ackExpired
  dsimp only
  split
  · exact (modSink_sinkLocal _).trans (flagAck_sinkLocal _)
  · exact modSink_sinkLocal _

theorem closeSink_sinkLocal (c : SinkCtx) : SinkLocal i s (closeSink i c s).1 := by
  unfold closeSink
  split
  · exact SinkLocal.refl i s
  · have h := closeSinkCtx_sinkLocal (i := i) (s := s) .localClose
    exact h.trans (place_sinkLocal_of h.config.2.2.1 _ _)

/-! ### The head -/

/-- What the closing of a sink context leaves in it (R140, R141, R142). -/
theorem closeSinkCtx_sink? {c : SinkCtx} (h : s.sink? i = some c) (r : CloseReason) :
    (closeSinkCtx i r s).sink? i = some { c with
      state := .closed, closeReason := r, held := [], ackCount := 0, ackTimer := none, nakOutstanding := false } := by
  have key : (closeSinkCtx i r s).sink? i =
      (s.modSink i fun c => { c.clearAck with state := .closed, closeReason := r, held := [] }).sink? i := by
    unfold closeSinkCtx withdrawApply
    dsimp only
    split <;> rfl
  rw [key]
  simp [h, SinkCtx.clearAck]

/-- Where neither a marker nor an unusable record stands at the head, the apply test changes nothing (R130). -/
theorem applyTest_of_head {c : SinkCtx} (h : s.sink? i = some c)
    (hm : ∀ r, c.head ≠ .marker r) (hu : c.head ≠ .unusable) (n : Nat) : applyTest i n s = s := by
  cases n with
  | zero => rfl
  | succ n =>
      simp only [applyTest, h]

end Sys2Proof.Machine
end

