-- ==== Sys2Proof/Laws/Source.lean ====
section
/-! SUPPORT. The shared operations of the source side: what each can touch (`SourceLocal`), and what it leaves in the
context of its stream. -/

namespace Sys2Proof.Machine

variable {i : WinIdx} {s : State}

/-! ### What each operation can touch -/

theorem endFence_sourceLocal (o : FenceOutcome) (t : Tag) : SourceLocal i s (endFence i o t s) :=
  ((modSource_sourceLocal _).trans (noticeWin_sourceLocal i)).trans (raise_sourceLocal _)

theorem abandonFence_sourceLocal : SourceLocal i s (abandonFence i s) := by
  unfold abandonFence
  split
  · split
    · exact endFence_sourceLocal _ _
    · exact SourceLocal.refl i s
  · exact SourceLocal.refl i s

theorem seedEndFreed_sourceLocal : SourceLocal i s (seedEndFreed i s) := by
  unfold seedEndFreed
  split
  · split
    · exact ((modSource_sourceLocal _).trans (noticeWin_sourceLocal i)).trans (raise_sourceLocal _)
    · exact SourceLocal.refl i s
  · exact SourceLocal.refl i s

theorem freeBefore_sourceLocal (e : Seq) : SourceLocal i s (freeBefore i e s) := by
  unfold freeBefore
  split
  · exact SourceLocal.refl i s
  · rename_i c h
    have h1 : SourceLocal i s
        (s.modSource i fun d => { d with queue := d.queue.drop (e - c.oldest).toNat, oldest := e }) :=
      modSource_sourceLocal _
    dsimp only
    have h2 : ∀ t, SourceLocal i s t → SourceLocal i s (if (e - c.oldest).toNat = 0 then t else release t) := by
      intro t ht; split
      · exact ht
      · exact ht.trans release_sourceLocal
    have h3 : ∀ t, SourceLocal i s t → SourceLocal i s
        (match freedMark (c.queue.take (e - c.oldest).toNat) with
          | some tag => endFence i .completed tag t
          | none => t) := by
      intro t ht; split
      · exact ht.trans (endFence_sourceLocal _ _)
      · exact ht
    split
    · exact (h3 _ (h2 _ h1)).trans seedEndFreed_sourceLocal
    · exact h3 _ (h2 _ h1)

theorem discard_sourceLocal : SourceLocal i s (discard i s) := by
  unfold discard
  exact ((modSource_sourceLocal _).trans abandonFence_sourceLocal).trans
    ((holders_sourceLocal _ _ _).trans release_sourceLocal)

theorem enterOpening_sourceLocal (r : OpenReason) : SourceLocal i s (enterOpening i r s) := by
  unfold enterOpening
  split
  · exact SourceLocal.refl i s
  · rename_i c h
    rw [source?_eq_some] at h
    have key : ∀ c' : SourceCtx,
        SourceLocal i s (s.setEntry i { s.entry i with role := .source c', promotion := none }) := by
      intro c'
      refine { (?_ : StreamLocal i s _) with apply := rfl, ack := rfl }
      constructor <;> first
        | rfl | exact ⟨rfl, rfl, rfl⟩ | (intro id hid; exact ⟨rfl, rfl⟩) | (intro j hj; simp [hj])
        | simp [Entry.enabled, h]
    exact (key _).trans (place_sourceLocal_of (by simp) _ _)

theorem openOrPend_sourceLocal (r : OpenReason) : SourceLocal i s (openOrPend i r s) := by
  unfold openOrPend
  split
  · exact enterOpening_sourceLocal r
  · exact modSource_sourceLocal _

theorem reseed_sourceLocal : SourceLocal i s (reseed i s) := by
  unfold reseed
  exact (((discard_sourceLocal.trans (modSource_sourceLocal _)).trans (noticeWin_sourceLocal i)).trans
    (raise_sourceLocal _)).trans (openOrPend_sourceLocal _)

theorem faultStream_sourceLocal (r : FaultReason) : SourceLocal i s (faultStream i r s) := by
  unfold faultStream
  exact ((discard_sourceLocal.trans (modSource_sourceLocal _)).trans (noticeWin_sourceLocal i)).trans
    (raise_sourceLocal _)

theorem enterClosed_sourceLocal : SourceLocal i s (enterClosed i s) := by
  unfold enterClosed
  exact discard_sourceLocal.trans (modSource_sourceLocal _)

theorem enterClosing_sourceLocal : SourceLocal i s (enterClosing i s) := by
  unfold enterClosing
  have h := (discard_sourceLocal (i := i) (s := s)).trans (modSource_sourceLocal fun c =>
    { c with state := .closing, openReason := none, retxTimer := none, triesLeft := Config.controlTries - 1,
             ctlTimer := some (discard i s).settings.controlTimeout })
  dsimp only
  split
  · exact h.trans (place_sourceLocal _ _)
  · exact h

theorem placeControl_sourceLocal (c : SourceCtx) : SourceLocal i s (placeControl i c s) := by
  unfold placeControl
  split <;> first | exact place_sourceLocal _ _ | exact SourceLocal.refl i s

theorem joinSeedQueue_sourceLocal (k : WinIdx) : SourceLocal i s (joinSeedQueue k s) :=
  holders_sourceLocal (i := i) (s := s) s.acc { s.seed with queue := s.seed.queue ++ [k] } s.offers

theorem suspendSource_sourceLocal (p : Prior) : SourceLocal i s (suspendSource i p s) := by
  unfold suspendSource
  dsimp only
  split
  · exact (modSource_sourceLocal _).trans (release_sourceLocal.trans (holders_sourceLocal _ _ _))
  · exact (modSource_sourceLocal _).trans (holders_sourceLocal _ _ _)

theorem sourceLinkLeft_sourceLocal : SourceLocal i s (sourceLinkLeft s i) := by
  unfold sourceLinkLeft
  split
  · exact SourceLocal.refl i s
  · split <;> first
      | exact suspendSource_sourceLocal _ | exact modSource_sourceLocal _ | exact enterClosed_sourceLocal
      | exact SourceLocal.refl i s

theorem sourceLinkUp_sourceLocal : SourceLocal i s (sourceLinkUp s i) := by
  unfold sourceLinkUp
  split
  · exact SourceLocal.refl i s
  · split
    · exact enterOpening_sourceLocal _
    · exact (modSource_sourceLocal _).trans (place_sourceLocal _ _)
    · exact SourceLocal.refl i s

theorem takeContinue_sourceLocal (e : Seq) : SourceLocal i s (takeContinue i e s) := by
  unfold takeContinue
  have h := ((modSource_sourceLocal (i := i) (s := s) fun c =>
    { c with retryCount := 0, state := match c.prior with | .seeding => .seeding | .live => .live }).trans
    (freeBefore_sourceLocal e)).trans (modSource_sourceLocal fun c => { c with txPtr := e })
  dsimp only
  split
  · split
    · exact h.trans (joinSeedQueue_sourceLocal i)
    · exact h
  · exact h

theorem takeReopenReply_sourceLocal (c : SourceCtx) (v : Verdict) (e : Seq) :
    SourceLocal i s (takeReopenReply i c v e s) := by
  unfold takeReopenReply
  dsimp only
  split
  · exact (modSource_sourceLocal _).trans (takeContinue_sourceLocal e)
  · exact (modSource_sourceLocal _).trans reseed_sourceLocal

theorem takeAck_sourceLocal (c : SourceCtx) (a : Seq) : SourceLocal i s (takeAck i c a s) := by
  unfold takeAck
  split
  · exact (modSource_sourceLocal _).trans (freeBefore_sourceLocal _)
  · exact countStale_sourceLocal

theorem takeNak_sourceLocal (c : SourceCtx) (a : Seq) : SourceLocal i s (takeNak i c a s) := by
  unfold takeNak
  split
  · exact (freeBefore_sourceLocal _).trans (modSource_sourceLocal _)
  · exact countStale_sourceLocal

/-- A source window yields: it stays enabled. -/
theorem yieldIfOn_sourceLocal (h : (s.source? i).isSome = true) : SourceLocal i s (yieldIfOn i s) := by
  unfold yieldIfOn
  split
  · obtain ⟨c, hc⟩ := Option.isSome_iff_exists.mp h
    rw [source?_eq_some] at hc
    unfold yieldWindow
    refine SourceLocal.trans ?_ (noticeWin_sourceLocal i)
    exact { setRole_streamLocal (by simp [Entry.enabled, hc]) with apply := rfl, ack := rfl }
  · exact SourceLocal.refl i s

/-! ### What stands in the context afterwards -/

/-- The discard leaves a context that differs in its journal and its fence alone, and the journal is empty (R55, R58). -/
theorem discard_source? {c : SourceCtx} (h : s.source? i = some c) :
    (discard i s).source? i = some { c with
      queue := [], oldest := c.nextSeq, txPtr := c.nextSeq, cursor := 0, fence := none
      lastFence := match c.fence with
        | some tag => some (.abandoned, tag)
        | none => c.lastFence } := by
  unfold discard abandonFence
  have hm := modSource_source? s i i fun c => { c with queue := [], oldest := c.nextSeq, txPtr := c.nextSeq, cursor := 0 }
  rw [h] at hm
  simp only [if_true, Option.map_some] at hm
  dsimp only
  rw [hm]
  cases hf : c.fence with
  | none =>
      dsimp only
      rw [show ∀ (a : AccessUnit) (e : SeedEngine) (t : State),
        (release { t with acc := a, seed := e }).source? i = t.source? i from fun _ _ _ => rfl, hm]
      rw [← hf]
  | some tag =>
      dsimp only
      rw [show ∀ (a : AccessUnit) (e : SeedEngine) (t : State),
        (release { t with acc := a, seed := e }).source? i = t.source? i from fun _ _ _ => rfl]
      unfold endFence
      rw [show ∀ (x : Cause) (t : State), (raise x (noticeWin i t)).source? i = t.source? i from fun _ _ => rfl]
      simp [hm]

/-- What `discard` does to the two holders of reservations, and that it is a release (R12, R55, R75). -/
theorem discard_holders : (discard i s).acc = s.acc.discard i ∧ (discard i s).seed = s.seed.discard i
    ∧ (discard i s).offers = { held := true, seed := true } := by
  have h : ∀ t : State, (abandonFence i t).acc = t.acc ∧ (abandonFence i t).seed = t.seed := by
    intro t
    unfold abandonFence
    split
    · split <;> simp [endFence, raise, noticeWin, addNotice]
    · exact ⟨rfl, rfl⟩
  simp [discard, release, h]

/-- Entering FAULT (R115). -/
theorem faultStream_source? {c : SourceCtx} (h : s.source? i = some c) (r : FaultReason) :
    ∃ d, (faultStream i r s).source? i = some d ∧ d.state = .fault ∧ d.faultReason = r ∧ d.diverged = true
      ∧ d.queue = [] ∧ d.openReason = none ∧ d.retxTimer = none ∧ d.ctlTimer = none ∧ d.triesLeft = 0
      ∧ d.epoch = c.epoch ∧ d.cursor = 0 ∧ d.fence = none := by
  have key : (faultStream i r s).source? i = ((discard i s).source? i).map fun c =>
      { c.stopTimers with state := .fault, openReason := none, faultReason := r, diverged := true } := by
    unfold faultStream
    rw [show ∀ (x : Cause) (t : State), (raise x (noticeWin i t)).source? i = t.source? i from fun _ _ => rfl]
    simp only [modSource_source?, if_true]
  rw [discard_source? h] at key
  exact ⟨_, key, by simp [SourceCtx.stopTimers]⟩

/-- A fault raises STREAM_FAULT and puts the stream into the notice set. -/
theorem faultStream_ev (r : FaultReason) : (faultStream i r s).ev =
    ((discard i s).ev.addNotice (s.entry i).stream).raise .streamFault := by
  have h := discard_sourceLocal (i := i) (s := s)
  have h2 : ((discard i s).modSource i fun c =>
      { c.stopTimers with state := .fault, openReason := none, faultReason := r, diverged := true }).streamOf i
      = (s.entry i).stream :=
    (h.trans (modSource_sourceLocal _)).config.2.2.1
  unfold faultStream
  simp only [raise, noticeWin, addNotice, modSource_ev, h2]

/-- Entering CLOSED (R118). -/
theorem enterClosed_source? {c : SourceCtx} (h : s.source? i = some c) :
    ∃ d, (enterClosed i s).source? i = some d ∧ d.state = .closed ∧ d.queue = [] ∧ d.openReason = none
      ∧ d.retxTimer = none ∧ d.ctlTimer = none ∧ d.triesLeft = 0 ∧ d.epoch = c.epoch
      ∧ d.faultReason = c.faultReason ∧ d.cursor = 0 ∧ d.fence = none
      ∧ ∀ tag, c.fence = some tag → d.lastFence = some (.abandoned, tag) := by
  have key : (enterClosed i s).source? i = ((discard i s).source? i).map fun c =>
      { c.stopTimers with state := .closed, openReason := none } := by
    unfold enterClosed
    simp only [modSource_source?, if_true]
  rw [discard_source? h] at key
  exact ⟨_, key, by simp (config := { contextual := true }) [SourceCtx.stopTimers]⟩

/-- Freeing where no MARK and no SEED_END leaves the queue (R52). -/
theorem freeBefore_plain {c : SourceCtx} (h : s.source? i = some c) (e : Seq)
    (hm : freedMark (c.queue.take (e - c.oldest).toNat) = none)
    (hs : (c.queue.take (e - c.oldest).toNat).any (·.kind == .seedEnd) = false) :
    freeBefore i e s = if (e - c.oldest).toNat = 0 then
        s.setRole i (.source { c with queue := c.queue.drop (e - c.oldest).toNat, oldest := e })
      else release (s.setRole i (.source { c with queue := c.queue.drop (e - c.oldest).toNat, oldest := e })) := by
  unfold freeBefore
  simp only [h, hm, hs, modSource_some _ h, Bool.false_eq_true, if_false]

end Sys2Proof.Machine
end

