-- ==== Sys2Proof/Laws/Event.lean ====
section
/-! SUPPORT. Events: what a part at rest gives an outside event to start from, and what every event ends with. A proof about
one command takes `outside_of_calm` or `manage_of_quiet`, then `finish_of_rest` or `finish_frame`. -/

namespace Sys2Proof.Machine

/-! ### The event unit -/

/-- Conditions that have not changed leave the event unit as it is (R157). -/
theorem judge_of_eq {e : EventUnit} {now : BitVec 13} (h : e.cond = now) : e.judge now = e := by
  subst h
  have h1 : e.cond &&& ~~~ e.cond = 0#13 := by ext k hk; simp
  have h2 : ~~~ 0#13 = BitVec.allOnes 13 := by decide
  cases e
  simp only [EventUnit.judge] at h1 ⊢
  simp only [h1, BitVec.zero_and, h2, BitVec.and_allOnes, BitVec.or_zero]

/-- What a judgement cannot touch. -/
theorem judge_frame (e : EventUnit) (now : BitVec 13) :
    (e.judge now).unmasked = e.unmasked ∧ (e.judge now).notice = e.notice ∧ (e.judge now).cond = now := ⟨rfl, rfl, rfl⟩

/-- A latch whose condition has not just ended under an acknowledge stays set (R156). -/
theorem judge_keeps {e : EventUnit} {now b : BitVec 13} (h : e.pending &&& b = b)
    (hf : e.cond &&& ~~~ now &&& e.ackMem &&& b = 0#13) : (e.judge now).pending &&& b = b := by
  ext k hk
  have h1 := congrArg (fun v => v.getLsbD k) h
  have h2 := congrArg (fun v => v.getLsbD k) hf
  simp [EventUnit.judge] at h1 h2 ⊢
  grind

/-- A cause just raised is pending. -/
theorem raise_pending (e : EventUnit) (c : Cause) : (e.raise c).pending &&& c.bit = c.bit := by
  ext k hk; simp [EventUnit.raise]; intro h; exact Or.inr h

/-- A pending bit is what `caused` asks for. -/
theorem caused_of_bit {s : State} {c : Cause} (h : s.ev.pending &&& c.bit = c.bit) : s.caused c = true := by
  unfold State.caused
  rw [h]
  cases c <;> decide

/-- A stream just added is a member of the notice set. -/
theorem noticed_of_bit {s : State} {id : StreamId} (h : s.ev.notice &&& (1#16 <<< id.toNat) = 1#16 <<< id.toNat) :
    s.noticed id = true := by
  unfold State.noticed
  rw [h]
  clear h
  revert id; decide

/-! ### The parts of `finish` -/

theorem takePresented_of_busy {s : State} (h : s.acc.phase ≠ .idle ∨ s.bus.presented = none) : takePresented s = s := by
  unfold takePresented
  split
  · rename_i h1 h2; rcases h with h | h
    · exact absurd h1 h
    · simp [h] at h2
  · rfl

theorem seedTake_of_busy {s : State} (h : s.seed.phase ≠ .idle ∨ s.seed.queue = []) : seedTake s = s := by
  unfold seedTake
  split
  · rename_i h1 h2; rcases h with h | h
    · exact absurd h1 h
    · simp [h] at h2
  · rfl

/-- Choosing changes the apply engine alone (R131). -/
theorem applyChoose_frame (s : State) : applyChoose s = { s with apply := (applyChoose s).apply } := by
  unfold applyChoose
  split
  · split
    · split <;> rfl
    · rfl
  · rfl

theorem applyChoose_of_rests {s : State} (h : s.applyRests = true) : applyChoose s = s := by
  unfold applyChoose
  split
  · rename_i hp
    have hn : nextServed s.apply.last (fun id => (s.applyHead id).isSome) = none := by
      simpa [State.applyRests, hp] using h
    rw [hn]
  · rfl

/-- Beginning a chunk changes the seed engine and the offer to it alone (R67). -/
theorem beginChunk_frame (i : WinIdx) (s : State) :
    beginChunk i s = { s with seed := (beginChunk i s).seed, offers := (beginChunk i s).offers } := by
  unfold beginChunk tryChunk
  split
  · rfl
  · split
    · dsimp only; split <;> rfl
    · rfl

theorem seedTake_frame (s : State) :
    seedTake s = { s with seed := (seedTake s).seed, offers := (seedTake s).offers } := by
  unfold seedTake
  split
  · exact beginChunk_frame _ _
  · rfl

theorem keepOffers_frame (s : State) : keepOffers s = { s with offers := { held := s.heldOfferDue, seed := s.seedOfferDue } } :=
  rfl

theorem judgeIfOver_frame (s : State) : judgeIfOver s = { s with ev := (judgeIfOver s).ev } := by
  unfold judgeIfOver judge
  split <;> rfl

/-- The event unit after the judgement. -/
theorem judgeIfOver_ev (s : State) :
    (judgeIfOver s).ev = if s.midEvent then s.ev else s.ev.judge s.conditions := by
  unfold judgeIfOver judge
  split <;> rfl

/-! ### What every event ends with -/

/-- With no access to take, what an event ends with touches the two engines, the offers and the event unit alone. -/
theorem finish_frame {s : State} (h : s.acc.phase ≠ .idle ∨ s.bus.presented = none) :
    finish s = { s with
      seed := (finish s).seed, apply := (finish s).apply, offers := (finish s).offers, ev := (finish s).ev } := by
  unfold finish
  split
  · rfl
  · rw [takePresented_of_busy h, judgeIfOver_frame, keepOffers_frame, applyChoose_frame, seedTake_frame]

/-- With nothing to take or to choose, it settles the offers and judges the conditions. -/
theorem finish_of_idle {s : State} (hr : s.resetLow = false) (ha : s.acc.phase ≠ .idle ∨ s.bus.presented = none)
    (hs : s.seed.phase ≠ .idle ∨ s.seed.queue = []) (hp : s.applyRests = true) :
    finish s = judgeIfOver (keepOffers s) := by
  unfold finish
  rw [takePresented_of_busy ha, seedTake_of_busy hs, applyChoose_of_rests hp]
  simp [hr]

/-- With nothing due besides, it judges the conditions. -/
theorem finish_of_over {s : State} (hr : s.resetLow = false) (ha : s.acc.phase ≠ .idle ∨ s.bus.presented = none)
    (hs : s.seed.phase ≠ .idle ∨ s.seed.queue = []) (hp : s.applyRests = true)
    (ho : s.offers = { held := false, seed := false }) (hg : s.grantDue = none) : finish s = judge s := by
  rw [finish_of_idle hr ha hs hp]
  have hk : keepOffers s = s := by
    cases s; simp_all [keepOffers, State.heldOfferDue, State.seedOfferDue]
  rw [hk]
  have hm : s.midEvent = false := by
    simp [State.midEvent, State.heldOfferDue, State.seedOfferDue, ho, hg]
  simp [judgeIfOver, hm]

/-- With the conditions as they were seen, it changes nothing. -/
theorem finish_of_rest {s : State} (hr : s.resetLow = false) (ha : s.acc.phase ≠ .idle ∨ s.bus.presented = none)
    (hs : s.seed.phase ≠ .idle ∨ s.seed.queue = []) (hp : s.applyRests = true)
    (ho : s.offers = { held := false, seed := false }) (hg : s.grantDue = none)
    (hc : s.ev.cond = s.conditions) : finish s = s := by
  rw [finish_of_over hr ha hs hp ho hg]
  unfold judge
  rw [judge_of_eq hc]

/-! ### The master's side -/

/-- Accepting an access gives at most one response, after those given before (R3). -/
theorem accept_bus (a : Access) (s : State) :
    ∃ rs, rs.length ≤ 1 ∧ (accept a s).bus = { s.bus with responses := rs ++ s.bus.responses } := by
  have none : ∀ t : State, t.bus = s.bus →
      ∃ rs : List Response, rs.length ≤ 1 ∧ t.bus = { s.bus with responses := rs ++ s.bus.responses } :=
    fun t h => ⟨[], by simp, by simp [h]⟩
  have one : ∀ r : Response,
      ∃ rs, rs.length ≤ 1 ∧ ({ s.bus with responses := r :: s.bus.responses } : Bus)
        = { s.bus with responses := rs ++ s.bus.responses } := fun r => ⟨[r], by simp, rfl⟩
  unfold accept
  split
  · exact one _
  · split
    · exact none _ rfl
    · split
      · exact none _ rfl
      · split
        · exact one _
        · split
          · exact one _
          · exact none _ rfl
      · split
        · refine none _ ?_
          unfold reserveWrite
          split
          · rfl
          · split
            · split
              · rfl
              · exact reseed_sourceLocal.bus
            · rfl
        · exact none _ rfl

/-- An event that leaves the access unit IDLE ends with nothing presented; every response given stands, and at most the one
of the access then taken is added (R1, R3). -/
theorem finish_bus_of_idle {s : State} (hr : s.resetLow = false) (ha : s.acc.phase = .idle) :
    ∃ rs, rs.length ≤ 1 ∧ (s.bus.presented = none → rs = [])
      ∧ (finish s).bus = { presented := none, responses := rs ++ s.bus.responses } := by
  have hb : (finish s).bus = (takePresented s).bus := by
    unfold finish
    rw [if_neg (by simp [hr]), judgeIfOver_frame, keepOffers_frame, applyChoose_frame, seedTake_frame]
  rw [hb]
  unfold takePresented
  rw [ha]
  cases hp : s.bus.presented with
  | none => exact ⟨[], by simp, by simp, by cases h : s.bus; simp_all⟩
  | some a =>
    obtain ⟨rs, hl, h⟩ := accept_bus a { s with bus := { s.bus with presented := none } }
    exact ⟨rs, hl, by simp, h⟩

/-! ### A part between two events -/

/-- What `still` says. -/
theorem still_iff {s : State} : s.still = true ↔
    s.resetLow = false ∧ s.offers = { held := false, seed := false } ∧ s.grantDue = none
      ∧ (s.acc.phase ≠ .idle ∨ s.bus.presented = none) ∧ (s.seed.phase ≠ .idle ∨ s.seed.queue = [])
      ∧ s.applyRests = true ∧ s.ev.cond = s.conditions := by
  cases ho : s.offers with
  | mk a b =>
    simp [State.still, State.midEvent, State.heldOfferDue, State.seedOfferDue, ho]
    cases a <;> cases b <;> simp [and_assoc]

/-- What `calm` says. -/
theorem calm_iff {s : State} : s.calm = true ↔ s.still = true ∧ s.choiceDue = none := by
  simp [State.calm]

theorem calm_still {s : State} (h : s.calm = true) : s.still = true := (calm_iff.mp h).1

theorem quiet_calm {s : State} (h : s.quiet = true) : s.calm = true := by
  simp [State.quiet] at h; exact h.1

theorem calm_resetLow {s : State} (h : s.calm = true) : s.resetLow = false := (still_iff.mp (calm_still h)).1

/-- No internal step is due at a calm part. -/
theorem calm_settled {s : State} (h : s.calm = true) : internalStep s = none := by
  obtain ⟨hs, hc⟩ := calm_iff.mp h
  obtain ⟨_, ho, hg, _⟩ := still_iff.mp hs
  simp [internalStep, State.heldOfferDue, State.seedOfferDue, ho, hg, hc]

/-- With no internal step due, settling changes nothing. -/
theorem settle_of_settled {s : State} (h : internalStep s = none) : settle s = s := by
  simp [settle, settleFor, h]

theorem settle_of_calm {s : State} (h : s.calm = true) : settle s = s := settle_of_settled (calm_settled h)

/-- An outside event at a calm part is the event and what it ends with. -/
theorem outside_of_calm {s : State} (h : s.calm = true) (f : State → State) : outside f s = finish (f s) := by
  simp [outside, settle_of_calm h]

/-- A management transaction at a quiet part likewise. -/
theorem manage_of_quiet {s : State} (h : s.quiet = true) (f : State → State) : manage f s = finish (f s) := by
  have hc := quiet_calm h
  have hd : s.port.resetDue = false := by simp [State.quiet] at h; exact h.2
  simp [manage, riseIfDue, hd, settle_of_calm hc, calm_resetLow hc]

/-- Ending an event that changed nothing changes nothing. -/
theorem finish_of_still {s : State} (h : s.still = true) : finish s = s := by
  obtain ⟨hr, ho, hg, ha, hs, hp, hc⟩ := still_iff.mp h
  exact finish_of_rest hr ha hs hp ho hg hc

/-- Ending an event that left alone everything the end of an event looks at changes nothing more. -/
theorem finish_of_still_congr {s t : State} (h : s.still = true) (h1 : t.resetLow = s.resetLow) (h2 : t.acc = s.acc)
    (h3 : t.bus = s.bus) (h4 : t.seed = s.seed) (h5 : t.apply = s.apply) (h6 : t.arb = s.arb)
    (h7 : t.offers = s.offers) (h8 : t.ev.cond = s.ev.cond) (h9 : t.conditions = s.conditions)
    (h10 : ∀ id, t.applyHead id = s.applyHead id) : finish t = t := by
  obtain ⟨hr, ho, hg, ha, hs, hp, hc⟩ := still_iff.mp h
  apply finish_of_rest
  · rw [h1, hr]
  · rw [h2, h3]; exact ha
  · rw [h4]; exact hs
  · unfold State.applyRests at hp ⊢
    simp only [h5, h10]
    exact hp
  · rw [h7, ho]
  · have hq : ∀ r, t.requests r = s.requests r := by
      intro r; cases r <;> simp [State.requests, h2, h4, h5]
    have hq' : t.requests = s.requests := funext hq
    unfold State.grantDue at hg ⊢
    rw [h6, hq']; exact hg
  · rw [h8, h9]; exact hc

end Sys2Proof.Machine
end

