-- ==== Sys2Proof/Laws/Kept.lean ====
section
/-! SUPPORT. `Kept`: what every event but a management transaction, a reset and a tick leaves alone: the queue, RESET_N, the
port, the settings, the tick, the masks, the configuration of every window, and that the arbiter ranks each requester. One
lemma for each operation of the memory path and the events. -/

namespace Sys2Proof.Machine

/-- The configuration of an entry: everything but the insides of its context and its PROMOTION record. -/
def Entry.SameConfig (e f : Entry) : Prop :=
  f.base = e.base ∧ f.length = e.length ∧ f.stream = e.stream ∧ f.policy = e.policy ∧ f.quota = e.quota
    ∧ f.readGuard = e.readGuard ∧ f.yieldOn = e.yieldOn ∧ f.enabled = e.enabled

theorem Entry.SameConfig.refl (e : Entry) : e.SameConfig e := ⟨rfl, rfl, rfl, rfl, rfl, rfl, rfl, rfl⟩

theorem Entry.SameConfig.trans {e f g : Entry} (h : e.SameConfig f) (k : f.SameConfig g) : e.SameConfig g := by
  obtain ⟨a, b, c, d, p, q, r, t⟩ := h
  obtain ⟨a', b', c', d', p', q', r', t'⟩ := k
  exact ⟨a'.trans a, b'.trans b, c'.trans c, d'.trans d, p'.trans p, q'.trans q, r'.trans r, t'.trans t⟩

/-- What most events keep. -/
structure Kept (s t : State) : Prop where
  pending : t.pending = s.pending
  resetLow : t.resetLow = s.resetLow
  port : t.port = s.port
  settings : t.settings = s.settings
  tickLength : t.tickLength = s.tickLength
  masks : t.ev.unmasked = s.ev.unmasked
  config : ∀ j, (s.entry j).SameConfig (t.entry j)
  ranks : s.arb.ranks = true → t.arb.ranks = true

theorem Kept.refl (s : State) : Kept s s := ⟨rfl, rfl, rfl, rfl, rfl, rfl, fun _ => Entry.SameConfig.refl _, id⟩

theorem Kept.trans {s t u : State} (h : Kept s t) (k : Kept t u) : Kept s u :=
  ⟨k.pending.trans h.pending, k.resetLow.trans h.resetLow, k.port.trans h.port, k.settings.trans h.settings,
    k.tickLength.trans h.tickLength, k.masks.trans h.masks, fun j => (h.config j).trans (k.config j),
    fun r => k.ranks (h.ranks r)⟩

/-- A change outside the window table and the fields above. -/
theorem Kept.of_eq {s t : State} (h1 : t.pending = s.pending) (h2 : t.resetLow = s.resetLow) (h3 : t.port = s.port)
    (h4 : t.settings = s.settings) (h5 : t.tickLength = s.tickLength) (h8 : t.ev.unmasked = s.ev.unmasked)
    (h6 : t.windows = s.windows)
    (h7 : t.arb.order = s.arb.order) : Kept s t :=
  ⟨h1, h2, h3, h4, h5, h8, fun j => by simp only [State.entry, h6]; exact Entry.SameConfig.refl _, fun r => by
    unfold Arbiter.ranks at r ⊢; rw [h7]; exact r⟩

/-- The window table stays valid (R22, R26). -/
theorem Kept.windowsValid {s t : State} (h : Kept s t) (hv : s.windowsValid = true) : t.windowsValid = true := by
  have hE : ∀ j, (t.entry j).valid = (s.entry j).valid := by
    intro j; obtain ⟨a, b, _, _, c, _⟩ := h.config j; simp [Entry.valid, a, b, c]
  have hC : ∀ i j, (t.entry i).clashes (t.entry j) = (s.entry i).clashes (s.entry j) := by
    intro i j
    obtain ⟨a, b, c, _⟩ := h.config i
    obtain ⟨a', b', c', _⟩ := h.config j
    simp [Entry.clashes, a, b, c, a', b', c']
  have hN : ∀ j, (t.entry j).enabled = (s.entry j).enabled := fun j => (h.config j).2.2.2.2.2.2.2
  simpa only [State.windowsValid, hE, hC, hN] using hv

theorem StreamLocal.kept {i : WinIdx} {s t : State} (h : StreamLocal i s t) : Kept s t :=
  ⟨h.pending, h.resetLow, h.port, h.settings, h.tickLength, h.ev.2.1, fun j => by
    by_cases hj : j = i
    · subst hj; exact h.config
    · rw [h.others j hj]; exact Entry.SameConfig.refl _,
   fun r => by rw [h.arb]; exact r⟩

/-- A fold over windows keeps what each of its steps keeps. -/
theorem Kept.foldl {f : State → WinIdx → State} (h : ∀ s i, Kept s (f s i)) (l : List WinIdx) (s : State) :
    Kept s (l.foldl f s) := by
  induction l generalizing s with
  | nil => exact Kept.refl s
  | cons i l ih => exact (h s i).trans (ih _)

variable {s : State}

/-! ### The access unit -/

theorem respond_kept (ok : Bool) (d : List Byte) : Kept s (respond ok d s) := Kept.of_eq rfl rfl rfl rfl rfl rfl rfl rfl

theorem requestPort_kept (a : Access) (r : Option Resv) : Kept s (requestPort a r s) :=
  Kept.of_eq rfl rfl rfl rfl rfl rfl rfl rfl

theorem holdWrite_kept (a : Access) (i : WinIdx) : Kept s (holdWrite a i s) :=
  Kept.of_eq rfl rfl rfl rfl rfl rfl rfl rfl

theorem reserveWrite_kept (a : Access) (i : WinIdx) (c : SourceCtx) : Kept s (reserveWrite a i c s) := by
  unfold reserveWrite
  split
  · exact requestPort_kept _ _
  · split
    · split
      · exact holdWrite_kept _ _
      · exact reseed_sourceLocal.toStreamLocal.kept.trans (requestPort_kept _ _)
    · exact requestPort_kept _ _

theorem refuseWrite_kept : Kept s (refuseWrite s) := Kept.of_eq rfl rfl rfl rfl rfl rfl rfl rfl

theorem refuseRead_kept : Kept s (refuseRead s) := Kept.of_eq rfl rfl rfl rfl rfl rfl rfl rfl

theorem accept_kept (a : Access) : Kept s (accept a s) := by
  unfold accept
  split
  · exact respond_kept _ _
  · split
    · exact requestPort_kept _ _
    · split
      · exact requestPort_kept _ _
      · split
        · exact refuseWrite_kept
        · split
          · exact refuseRead_kept
          · exact requestPort_kept _ _
      · split
        · exact reserveWrite_kept _ _ _
        · exact requestPort_kept _ _

theorem takePresented_kept : Kept s (takePresented s) := by
  unfold takePresented
  split
  · exact Kept.trans (t := { s with bus := { s.bus with presented := none } })
      (Kept.of_eq rfl rfl rfl rfl rfl rfl rfl rfl) (accept_kept _)
  · exact Kept.refl s

/-! ### What every event ends with -/

theorem seedTake_kept : Kept s (seedTake s) := by
  rw [seedTake_frame]; exact Kept.of_eq rfl rfl rfl rfl rfl rfl rfl rfl

theorem applyChoose_kept : Kept s (applyChoose s) := by
  rw [applyChoose_frame]; exact Kept.of_eq rfl rfl rfl rfl rfl rfl rfl rfl

theorem judgeIfOver_kept : Kept s (judgeIfOver s) := by
  unfold judgeIfOver
  split
  · exact Kept.refl s
  · exact Kept.of_eq rfl rfl rfl rfl rfl rfl rfl rfl

theorem keepOffers_kept : Kept s (keepOffers s) := Kept.of_eq rfl rfl rfl rfl rfl rfl rfl rfl

theorem finish_kept : Kept s (finish s) := by
  unfold finish
  split
  · exact Kept.refl s
  · exact (((takePresented_kept.trans seedTake_kept).trans applyChoose_kept).trans keepOffers_kept).trans
      judgeIfOver_kept

/-! ### Grants -/

/-- Rotation keeps the ranking a ranking of each requester once (R17). -/
theorem rotate_ranks (r : Requester) (a : Arbiter) (h : a.ranks = true) :
    Arbiter.ranks { a with order := a.order.filter (· ≠ r) ++ [r] } = true := by
  have hp := List.isPerm_iff.mp h
  apply List.isPerm_iff.mpr
  have h1 : (a.order.filter (· ≠ r)).Perm ([Requester.access, .seed, .apply].filter (· ≠ r)) := hp.filter _
  have h2 := h1.append_right [r]
  refine h2.trans ?_
  cases r <;> decide

theorem rotate_kept (r : Requester) : Kept s (rotate r s) :=
  ⟨rfl, rfl, rfl, rfl, rfl, rfl, fun _ => Entry.SameConfig.refl _, rotate_ranks r s.arb⟩

theorem returnResv_kept : Kept s (returnResv s) := by
  unfold returnResv; split <;> exact Kept.of_eq rfl rfl rfl rfl rfl rfl rfl rfl

theorem beginAccess_kept (a : Access) (j : Option Journaled) : Kept s (beginAccess a j s) :=
  Kept.of_eq rfl rfl rfl rfl rfl rfl rfl rfl

/-- Replacing a source context by another. -/
theorem setSource_kept {i : WinIdx} {c : SourceCtx} (h : s.source? i = some c) (d : SourceCtx) :
    Kept s (s.setRole i (.source d)) := by
  rw [source?_eq_some] at h
  exact (setRole_streamLocal (by simp [Entry.enabled, h])).kept

theorem journalWrite_kept (a : Access) {i : WinIdx} {c : SourceCtx} (h : s.source? i = some c) :
    Kept s (journalWrite a i c s) := by
  unfold journalWrite
  dsimp only
  split
  · exact (setSource_kept h _).trans returnResv_kept
  · exact (setSource_kept h _).trans (Kept.of_eq rfl rfl rfl rfl rfl rfl rfl rfl)

theorem grantWrite_kept (a : Access) {i : WinIdx} {c : SourceCtx} (h : s.source? i = some c) :
    Kept s (grantWrite a i c s) := by
  unfold grantWrite
  split
  · exact (journalWrite_kept a h).trans (beginAccess_kept _ _)
  · exact returnResv_kept.trans (beginAccess_kept _ _)

theorem grantAccess_kept : Kept s (grantAccess s) := by
  unfold grantAccess
  split
  · have hr := rotate_kept (s := s) .access
    dsimp only
    split
    · exact hr.trans (returnResv_kept.trans (beginAccess_kept _ _))
    · split
      · exact hr.trans (returnResv_kept.trans (beginAccess_kept _ _))
      · split
        · exact hr.trans (returnResv_kept.trans refuseWrite_kept)
        · split
          · exact hr.trans (returnResv_kept.trans refuseRead_kept)
          · exact hr.trans (returnResv_kept.trans (beginAccess_kept _ _))
      · rename_i c hc
        split
        · exact hr.trans (grantWrite_kept _ (source?_eq_some.mpr hc))
        · exact hr.trans (returnResv_kept.trans (beginAccess_kept _ _))
  · exact Kept.refl s

theorem cursorAdvanced_kept : Kept s (cursorAdvanced s) := by
  unfold cursorAdvanced
  split
  · split
    · split
      · split
        · split
          · exact reserveWrite_kept _ _ _
          · exact Kept.refl s
        · exact Kept.refl s
      · exact Kept.refl s
    · exact Kept.refl s
  · exact Kept.refl s

theorem grantSeed_kept : Kept s (grantSeed s) := by
  unfold grantSeed
  split
  · split
    · rename_i i r _ _ _ _ c h
      have h1 := rotate_kept (s := s) .seed
      have h' : (rotate .seed s).source? _ = some c := h
      have h2 := h1.trans (setSource_kept h'
        { c.push (chunkRecords (s.entry i).stream c.nextSeq c.cursor) with cursor := c.cursor + 64 })
      refine (h2.trans ?_).trans cursorAdvanced_kept
      exact Kept.of_eq rfl rfl rfl rfl rfl rfl rfl rfl
    · exact Kept.of_eq rfl rfl rfl rfl rfl rfl rfl rfl
  · exact Kept.of_eq rfl rfl rfl rfl rfl rfl rfl rfl

theorem grantApply_kept : Kept s (grantApply s) := by
  unfold grantApply
  split
  · rename_i v _ _
    have h1 := rotate_kept (s := s) .apply
    have h2 := (modSink_sinkLocal (i := v.win) (s := rotate .apply s)
      fun c => { c with held := markUnderOp v.recs c.held }).toStreamLocal.kept
    exact (h1.trans h2).trans (Kept.of_eq rfl rfl rfl rfl rfl rfl rfl rfl)
  · exact Kept.of_eq rfl rfl rfl rfl rfl rfl rfl rfl

theorem grant_kept (r : Requester) : Kept s (grant r s) := by
  cases r
  · exact grantAccess_kept
  · exact grantSeed_kept
  · exact grantApply_kept

/-! ### Offers, transmissions and the internal steps -/

theorem offerHeld_kept : Kept s (offerHeld s) := by
  unfold offerHeld
  dsimp only
  split
  · split <;> exact Kept.of_eq rfl rfl rfl rfl rfl rfl rfl rfl
  · exact Kept.of_eq rfl rfl rfl rfl rfl rfl rfl rfl

theorem putSeedEnd_kept (i : WinIdx) : Kept s (putSeedEnd i s) := by
  unfold putSeedEnd
  exact (modSource_sourceLocal _).toStreamLocal.kept.trans (Kept.of_eq rfl rfl rfl rfl rfl rfl rfl rfl)

theorem trySeedEnd_kept (i : WinIdx) : Kept s (trySeedEnd i s) := by
  unfold trySeedEnd
  split
  · exact putSeedEnd_kept i
  · exact Kept.of_eq rfl rfl rfl rfl rfl rfl rfl rfl

theorem tryChunk_kept (i : WinIdx) : Kept s (tryChunk i s) := by
  unfold tryChunk
  split
  · dsimp only; split <;> exact Kept.of_eq rfl rfl rfl rfl rfl rfl rfl rfl
  · exact Kept.of_eq rfl rfl rfl rfl rfl rfl rfl rfl

theorem offerSeed_kept : Kept s (offerSeed s) := by
  unfold offerSeed
  have h : Kept s { s with offers := { s.offers with seed := false } } := Kept.of_eq rfl rfl rfl rfl rfl rfl rfl rfl
  dsimp only
  split
  · split
    · exact h.trans (trySeedEnd_kept _)
    · exact h.trans (tryChunk_kept _)
  · exact h

theorem startFrame_kept (f : Frame) : Kept s (startFrame f s) := by
  unfold startFrame
  dsimp only
  split <;> exact Kept.of_eq rfl rfl rfl rfl rfl rfl rfl rfl

theorem reportAck_kept (id : StreamId) (f : AckFlag) : Kept s (reportAck id f s) := by
  unfold reportAck
  split
  · exact (modSink_sinkLocal _).toStreamLocal.kept
  · exact Kept.refl s

/-- What a stream may send is found at its own source context (R99). -/
theorem sendableFor_some {id : StreamId} {i : WinIdx} {c : SourceCtx} {r : Record}
    (h : s.sendableFor id = some (i, c, r)) :
    s.lookup id = some i ∧ s.source? i = some c ∧ c.sendable = some r := by
  unfold State.sendableFor at h
  split at h
  · rename_i k hk
    split at h
    · rename_i d hd
      cases hs : d.sendable with
      | none => simp [hs] at h
      | some q =>
          simp only [hs, Option.map_some, Option.some.injEq, Prod.mk.injEq] at h
          obtain ⟨rfl, rfl, rfl⟩ := h
          exact ⟨hk, hd, hs⟩
    · simp at h
  · simp at h

theorem beginFrame_kept (ch : Choice) : Kept s (beginFrame ch s) := by
  cases ch with
  | hello =>
      exact Kept.trans (t := modLink (fun l => { l with helloDue := false }) s)
        (Kept.of_eq rfl rfl rfl rfl rfl rfl rfl rfl) (startFrame_kept _)
  | keepalive =>
      exact Kept.trans (t := modLink (fun l => { l with keepaliveDue := false }) s)
        (Kept.of_eq rfl rfl rfl rfl rfl rfl rfl rfl) (startFrame_kept _)
  | control id =>
      simp only [beginFrame]
      split
      · exact Kept.trans (t := setCtlSlot id none { s with sched := { s.sched with lastCtl := id } })
          (Kept.of_eq rfl rfl rfl rfl rfl rfl rfl rfl) (startFrame_kept _)
      · exact Kept.refl s
  | ack id =>
      simp only [beginFrame]
      split
      · rename_i f _
        have h1 : Kept s (setAckFlag id none { s with sched := { s.sched with lastAck := id } }) :=
          Kept.of_eq rfl rfl rfl rfl rfl rfl rfl rfl
        exact (h1.trans (reportAck_kept id f)).trans (startFrame_kept _)
      · exact Kept.refl s
  | record id =>
      simp only [beginFrame]
      split
      · rename_i i c r h
        have h1 := setSource_kept (sendableFor_some h).2.1 (c.sent r s.settings)
        have h2 : Kept (s.setRole i (.source (c.sent r s.settings)))
            { s.setRole i (.source (c.sent r s.settings)) with
              sched := { (s.setRole i (.source (c.sent r s.settings))).sched with lastRec := id } } :=
          Kept.of_eq rfl rfl rfl rfl rfl rfl rfl rfl
        exact (h1.trans h2).trans (startFrame_kept _)
      · exact Kept.refl s

theorem stepOfferHeld_kept : Kept s (stepOfferHeld s) := by
  unfold stepOfferHeld
  split
  · exact offerHeld_kept.trans finish_kept
  · exact Kept.refl s

theorem stepOfferSeed_kept : Kept s (stepOfferSeed s) := by
  unfold stepOfferSeed
  dsimp only
  split
  · exact stepOfferHeld_kept.trans (offerSeed_kept.trans finish_kept)
  · exact stepOfferHeld_kept

theorem stepGrant_kept (r : Requester) : Kept s (stepGrant r s) := by
  unfold stepGrant
  dsimp only
  split
  · exact stepOfferSeed_kept.trans ((grant_kept r).trans finish_kept)
  · exact stepOfferSeed_kept

theorem stepTransmit_kept : Kept s (stepTransmit s) := by
  unfold stepTransmit
  split
  · exact (beginFrame_kept _).trans finish_kept
  · exact Kept.refl s

theorem internalStep_kept {t : State} (h : internalStep s = some t) : Kept s t := by
  unfold internalStep at h
  split at h
  · cases h; exact stepOfferHeld_kept
  · split at h
    · cases h; exact stepOfferSeed_kept
    · split at h
      · cases h; exact stepGrant_kept _
      · split at h
        · cases h; exact stepTransmit_kept
        · cases h

theorem settleFor_kept (n : Nat) : Kept s (settleFor n s) := by
  induction n generalizing s with
  | zero => exact Kept.refl s
  | succ n ih =>
      unfold settleFor
      split
      · rename_i h; exact (internalStep_kept h).trans ih
      · exact Kept.refl s

theorem settle_kept : Kept s (settle s) := settleFor_kept 16

/-- An outside event keeps what the event itself keeps. -/
theorem outside_kept {f : State → State} (h : ∀ s, Kept s (f s)) : Kept s (outside f s) :=
  settle_kept.trans ((h _).trans finish_kept)

/-! ### Answers -/

theorem freePort_kept : Kept s (freePort s) := Kept.of_eq rfl rfl rfl rfl rfl rfl rfl rfl

theorem raise_kept (c : Cause) : Kept s (raise c s) := Kept.of_eq rfl rfl rfl rfl rfl rfl rfl rfl

theorem journaledError_kept (j : Journaled) : Kept s (journaledError j s) := by
  unfold journaledError
  split
  · split
    · exact (faultStream_sourceLocal _).toStreamLocal.kept
    · exact Kept.refl s
  · exact Kept.refl s

theorem answerAccess_kept (ok : Bool) (d : BitVec 512) : Kept s (answerAccess ok d s) := by
  unfold answerAccess
  split
  · split
    · dsimp only
      split
      · exact freePort_kept.trans (respond_kept _ _)
      · split
        · exact ((freePort_kept.trans (raise_kept _)).trans (journaledError_kept _)).trans (respond_kept _ _)
        · exact (freePort_kept.trans (raise_kept _)).trans (respond_kept _ _)
    · exact Kept.refl s
  · exact Kept.refl s

theorem beginChunk_kept (i : WinIdx) : Kept s (beginChunk i s) := by
  rw [beginChunk_frame]; exact Kept.of_eq rfl rfl rfl rfl rfl rfl rfl rfl

theorem nextChunk_kept (i : WinIdx) : Kept s (nextChunk i s) := by
  unfold nextChunk
  split
  · exact Kept.of_eq rfl rfl rfl rfl rfl rfl rfl rfl
  · exact beginChunk_kept i

theorem seedField_kept (e : SeedEngine) : Kept s { s with seed := e } := Kept.of_eq rfl rfl rfl rfl rfl rfl rfl rfl

theorem chunkFilled_kept (f : Flight) (d : BitVec 512) : Kept s (chunkFilled f d s) := by
  unfold chunkFilled
  have h := (modSource_sourceLocal (i := f.win) (s := s) fun c =>
    { c with queue := fillRecords f.first d c.queue }).toStreamLocal.kept
  dsimp only
  split
  · exact h.trans (seedField_kept _)
  · split
    · split
      · exact h.trans (putSeedEnd_kept _)
      · exact h.trans (trySeedEnd_kept _)
    · split
      · exact h.trans ((seedField_kept _).trans (nextChunk_kept _))
      · exact h.trans (seedField_kept _)

theorem seedAnswered_kept (f : Flight) (ok : Bool) (d : BitVec 512) : Kept s (seedAnswered f ok d s) := by
  unfold seedAnswered
  split
  · split
    · exact seedField_kept _
    · exact chunkFilled_kept f d
  · dsimp only
    split
    · exact (raise_kept _).trans (seedField_kept _)
    · exact ((raise_kept _).trans (faultStream_sourceLocal _).toStreamLocal.kept).trans (seedField_kept _)

theorem answerSeed_kept (ok : Bool) (d : BitVec 512) : Kept s (answerSeed ok d s) := by
  unfold answerSeed
  split
  · split
    · exact freePort_kept.trans (seedAnswered_kept _ _ _)
    · exact Kept.refl s
  · exact Kept.refl s

theorem applyField_kept (a : ApplyEngine) : Kept s { s with apply := a } := Kept.of_eq rfl rfl rfl rfl rfl rfl rfl rfl

theorem answerApply_kept (ok : Bool) : Kept s (answerApply ok s) := by
  unfold answerApply
  split
  · rename_i op v _ _
    split
    · cases ok
      · have h : Kept s { raise .memoryError (freePort s) with
            apply := (raise .memoryError (freePort s)).apply.drop } :=
          (freePort_kept.trans (raise_kept _)).trans (applyField_kept _)
        dsimp only
        split
        · exact h.trans (applyErrorClose_sinkLocal (i := v.win)).toStreamLocal.kept
        · exact h
      · have h : Kept s { freePort s with apply := (freePort s).apply.drop } := freePort_kept.trans (applyField_kept _)
        dsimp only
        split
        · exact h.trans (completeApply_sinkLocal _ rfl).toStreamLocal.kept
        · exact h
    · exact Kept.refl s
  · exact Kept.refl s

@[simp] theorem handAnswer_ok (take : Bool → State → State) : handAnswer .ok take s = take true s := rfl

@[simp] theorem handAnswer_error (take : Bool → State → State) : handAnswer .error take s = take false s := rfl

/-- A late answer is ignored (R20, R178). -/
@[simp] theorem handAnswer_late (take : Bool → State → State) : handAnswer .late take s = s := rfl

theorem handAnswer_kept (ans : Answer) {take : Bool → State → State} (h : ∀ ok s, Kept s (take ok s)) :
    Kept s (handAnswer ans take s) := by
  cases ans
  · exact h _ s
  · exact h _ s
  · exact Kept.refl s

/-- The filling of a chunk's records is what the statements say of it (R69). -/
theorem fillRecords_eq_chunkStored (first : Seq) (data : BitVec 512) (q : List Record) :
    fillRecords first data q = chunkStored first data q := rfl

end Sys2Proof.Machine
end

