-- ==== Sys2Proof/Laws/Link.lean ====
section
/-! SUPPORT. `Kept` for the rest of what an outside event does: the frames a stream takes, the link's transitions, the
dispatch of a received frame, and the expiries of the timers. -/

namespace Sys2Proof.Machine

variable {s : State}

/-! ### Changes outside the table -/

theorem place_kept (id : StreamId) (epoch : Epoch) (b : Body) : Kept s (place id epoch b s) := by
  unfold place; split <;> exact Kept.of_eq rfl rfl rfl rfl rfl rfl rfl rfl

theorem modLink_kept (f : Link → Link) : Kept s (modLink f s) := Kept.of_eq rfl rfl rfl rfl rfl rfl rfl rfl

theorem modCounters_kept (f : LinkCounters → LinkCounters) : Kept s (modCounters f s) := modLink_kept _

theorem countStale_kept : Kept s (countStale s) := modCounters_kept _

theorem modSource_kept (i : WinIdx) (f : SourceCtx → SourceCtx) : Kept s (s.modSource i f) :=
  (modSource_sourceLocal f).toStreamLocal.kept

theorem modSink_kept (i : WinIdx) (f : SinkCtx → SinkCtx) : Kept s (s.modSink i f) :=
  (modSink_sinkLocal f).toStreamLocal.kept

theorem noticeWin_kept (i : WinIdx) : Kept s (noticeWin i s) := Kept.of_eq rfl rfl rfl rfl rfl rfl rfl rfl

theorem faultStream_kept (i : WinIdx) (r : FaultReason) : Kept s (faultStream i r s) :=
  (faultStream_sourceLocal r).toStreamLocal.kept

theorem enterClosed_kept (i : WinIdx) : Kept s (enterClosed i s) := enterClosed_sourceLocal.toStreamLocal.kept

/-! ### Frames and timers at a source stream -/

theorem yieldIfOn_kept {i : WinIdx} (h : (s.source? i).isSome = true) : Kept s (yieldIfOn i s) :=
  (yieldIfOn_sourceLocal h).toStreamLocal.kept

theorem freeBefore_kept (i : WinIdx) (e : Seq) : Kept s (freeBefore i e s) :=
  (freeBefore_sourceLocal e).toStreamLocal.kept

theorem modSource_isSome {i : WinIdx} {f : SourceCtx → SourceCtx} :
    ((s.modSource i f).source? i).isSome = (s.source? i).isSome := by
  simp

theorem endFence_isSome {i : WinIdx} (o : FenceOutcome) (t : Tag) :
    ((endFence i o t s).source? i).isSome = (s.source? i).isSome :=
  modSource_isSome (s := s)

theorem seedEndFreed_isSome {i : WinIdx} : ((seedEndFreed i s).source? i).isSome = (s.source? i).isSome := by
  unfold seedEndFreed
  split
  · split
    · exact modSource_isSome (s := s)
    · rfl
  · rfl

theorem freeBefore_isSome {i : WinIdx} (e : Seq) : ((freeBefore i e s).source? i).isSome = (s.source? i).isSome := by
  have h2 : ∀ (b : Prop) [Decidable b] (t : State),
      ((if b then t else release t).source? i).isSome = (t.source? i).isSome := by
    intro b _ t; split <;> rfl
  have h3 : ∀ (o : Option Tag) (t : State), ((match o with
      | some tag => endFence i .completed tag t
      | none => t).source? i).isSome = (t.source? i).isSome := by
    intro o t; cases o
    · rfl
    · exact endFence_isSome _ _
  have h4 : ∀ (b : Bool) (t : State),
      ((if b then seedEndFreed i t else t).source? i).isSome = (t.source? i).isSome := by
    intro b t; cases b
    · rfl
    · exact seedEndFreed_isSome
  unfold freeBefore
  split
  · rfl
  · dsimp only
    exact (h4 _ _).trans ((h3 _ _).trans ((h2 _ _).trans modSource_isSome))

theorem faultStream_isSome {i : WinIdx} (h : (s.source? i).isSome = true) (r : FaultReason) :
    ((faultStream i r s).source? i).isSome = true := by
  obtain ⟨c, hc⟩ := Option.isSome_iff_exists.mp h
  obtain ⟨d, hd, _⟩ := faultStream_source? hc r
  simp [hd]

theorem enterClosed_isSome {i : WinIdx} (h : (s.source? i).isSome = true) :
    ((enterClosed i s).source? i).isSome = true := by
  obtain ⟨c, hc⟩ := Option.isSome_iff_exists.mp h
  obtain ⟨d, hd, _⟩ := enterClosed_source? hc
  simp [hd]

theorem seedAccepted_kept (i : WinIdx) (f : SourceCtx → SourceCtx) : Kept s (joinSeedQueue i (s.modSource i f)) :=
  Kept.trans (t := s.modSource i f) (modSource_kept i f) (Kept.of_eq rfl rfl rfl rfl rfl rfl rfl rfl)

theorem takePromoted_kept (i : WinIdx) (c : SourceCtx) (l : Seq) (h : (s.source? i).isSome = true) :
    Kept s (takePromoted i c l s) := by
  unfold takePromoted
  dsimp only
  split
  · have h1 := freeBefore_isSome (s := s) (i := i) (l + 1#16)
    rw [h] at h1
    have k1 := freeBefore_kept (s := s) i (l + 1#16)
    have k2 := k1.trans (modSource_kept i fun d => { d with
      txPtr := if (c.txPtr - c.oldest).toNat < (l + 1#16 - c.oldest).toNat then l + 1#16 else c.txPtr })
    have k3 := k2.trans (faultStream_kept i .peerPromoted)
    exact k3.trans (yieldIfOn_kept (faultStream_isSome (modSource_isSome.trans h1) _))
  · exact (faultStream_kept i _).trans (yieldIfOn_kept (faultStream_isSome h _))

theorem takeAck_kept (i : WinIdx) (c : SourceCtx) (a : Seq) : Kept s (takeAck i c a s) :=
  (takeAck_sourceLocal c a).toStreamLocal.kept

theorem takeNak_kept (i : WinIdx) (c : SourceCtx) (a : Seq) : Kept s (takeNak i c a s) :=
  (takeNak_sourceLocal c a).toStreamLocal.kept

theorem takeAtSource_kept (i : WinIdx) (c : SourceCtx) (b : Body) (h : (s.source? i).isSome = true) :
    Kept s (takeAtSource i c b s) := by
  unfold takeAtSource
  generalize c.state = st
  cases st <;> cases b <;> dsimp only <;> with_reducible first
    | exact countStale_kept
    | exact faultStream_kept i _
    | exact takeAck_kept i c _
    | exact takeNak_kept i c _
    | exact takePromoted_kept i c _ h
    | exact enterClosed_kept i
    | exact seedAccepted_kept i _
    | exact (takeReopenReply_sourceLocal c _ _).toStreamLocal.kept
    | exact (enterClosed_kept i).trans (yieldIfOn_kept (enterClosed_isSome h))

theorem sourceFrame_kept (i : WinIdx) (epoch : Epoch) (b : Body) : Kept s (sourceFrame i epoch b s) := by
  unfold sourceFrame
  split
  · rename_i c h
    split
    · exact takeAtSource_kept i c b (by simp [h])
    · exact countStale_kept
  · exact countStale_kept

theorem retxExpired_kept (i : WinIdx) (c : SourceCtx) : Kept s (retxExpired i c s) := by
  unfold retxExpired
  split
  · split
    · exact modSource_kept i _
    · exact faultStream_kept i _
  · split
    · exact modSource_kept i _
    · exact faultStream_kept i _
  · exact modSource_kept i _

theorem ctlAgain_kept (i : WinIdx) (c : SourceCtx) {f : State → State} (h : ∀ s, Kept s (f s)) :
    Kept s (ctlAgain i c f s) := by
  unfold ctlAgain
  split
  · exact (modSource_kept i _).trans (placeControl_sourceLocal c).toStreamLocal.kept
  · exact h s

theorem ctlExpired_kept (i : WinIdx) (c : SourceCtx) : Kept s (ctlExpired i c s) := by
  unfold ctlExpired
  split
  · exact ctlAgain_kept i c fun _ => faultStream_kept i _
  · exact ctlAgain_kept i c fun _ => faultStream_kept i _
  · exact ctlAgain_kept i c fun _ => enterClosed_kept i
  · exact modSource_kept i _

/-! ### Frames at a sink stream -/

theorem openAtSink_kept (id : StreamId) (epoch : Epoch) (length : Word) : Kept s (openAtSink id epoch length s) := by
  unfold openAtSink
  split
  · exact place_kept _ _ _
  · split
    · exact place_kept _ _ _
    · split
      · exact place_kept _ _ _
      · split
        · exact place_kept _ _ _
        · exact (newPairing_sinkLocal epoch).toStreamLocal.kept

theorem placePromoted_kept (id : StreamId) (p : Promotion) : Kept s (placePromoted id p s) := place_kept _ _ _

theorem reopenAtSink_kept (id : StreamId) (epoch : Epoch) (o n : Seq) : Kept s (reopenAtSink id epoch o n s) := by
  unfold reopenAtSink
  split
  · exact placePromoted_kept _ _
  · split
    · split
      · exact (giveContinue_sinkLocal _).toStreamLocal.kept
      · exact place_kept _ _ _
    · exact place_kept _ _ _

theorem recordAtSink_kept (id : StreamId) (epoch : Epoch) (r : RecBody) : Kept s (recordAtSink id epoch r s) := by
  unfold recordAtSink
  split
  · exact placePromoted_kept _ _
  · split
    · split
      · exact place_kept _ _ _
      · exact (recordAtCtx_sinkLocal _ epoch r).toStreamLocal.kept
    · exact place_kept _ _ _

theorem closeAtSink_kept (id : StreamId) (epoch : Epoch) : Kept s (closeAtSink id epoch s) := by
  unfold closeAtSink
  split
  · split
    · exact (((closeSinkCtx_sinkLocal .peer).toStreamLocal.kept.trans (noticeWin_kept _)).trans (raise_kept _)).trans
        (place_kept _ _ _)
    · exact place_kept _ _ _
  · exact place_kept _ _ _

/-! ### The link -/

theorem tryTrain_kept : Kept s (tryTrain s) := by
  unfold tryTrain
  split
  · exact modLink_kept _
  · exact Kept.refl s

theorem leaveUp_kept : Kept s (leaveUp s) := by
  have h1 := modLink_kept (s := s) fun l =>
    { l with state := .down, silenceTimer := none, keepaliveTimer := none, keepaliveDue := false }
  have h2 : ∀ t, Kept t (clearSched t) := fun _ => Kept.of_eq rfl rfl rfl rfl rfl rfl rfl rfl
  exact ((h1.trans (h2 _)).trans (Kept.foldl (fun _ _ => sourceLinkLeft_sourceLocal.toStreamLocal.kept) _ _)).trans
    (Kept.foldl (fun _ _ => sinkLinkLeft_sinkLocal.toStreamLocal.kept) _ _)

theorem goDown_kept : Kept s (goDown s) := by
  unfold goDown
  split
  · exact leaveUp_kept
  · exact modLink_kept _
  · exact Kept.refl s

theorem dropLink_kept : Kept s (dropLink s) := goDown_kept.trans tryTrain_kept

theorem enterUp_kept : Kept s (enterUp s) := by
  have h1 := modLink_kept (s := s) fun l =>
    { l with state := .up, helloTimer := none, helloDue := false, silenceTimer := some s.settings.silenceLimit,
             keepaliveTimer := some s.settings.keepaliveInterval }
  exact (h1.trans (raise_kept .linkUp)).trans
    (Kept.foldl (fun _ _ => sourceLinkUp_sourceLocal.toStreamLocal.kept) _ _)

theorem helloInTraining_kept (v : Byte) (heard : Bool) : Kept s (helloInTraining v heard s) := by
  unfold helloInTraining
  split
  · exact modCounters_kept _
  · dsimp only
    have h1 := modLink_kept (s := s) fun l => { l with heard := true }
    split
    · exact h1.trans enterUp_kept
    · split
      · exact h1.trans (modLink_kept _)
      · exact h1

theorem helloInUp_kept (v : Byte) (heard : Bool) : Kept s (helloInUp v heard s) := by
  unfold helloInUp
  split
  · exact modCounters_kept _
  · split
    · exact Kept.trans (t := restartSilence s) (modLink_kept _) (modLink_kept _)
    · exact dropLink_kept

theorem dispatch_kept (id : StreamId) (epoch : Epoch) (b : Body) : Kept s (dispatch id epoch b s) := by
  unfold dispatch
  split
  · exact openAtSink_kept _ _ _
  · exact reopenAtSink_kept _ _ _ _
  · exact recordAtSink_kept _ _ _
  · split
    · exact sourceFrame_kept _ _ _
    · exact closeAtSink_kept _ _
  all_goals
    split
    · exact sourceFrame_kept _ _ _
    · exact countStale_kept

theorem dispatchFrame_kept (f : Frame) : Kept s (dispatchFrame f s) := by
  unfold dispatchFrame
  split
  · exact Kept.refl s
  · exact Kept.refl s
  · exact dispatch_kept _ _ _

theorem validFrame_kept (f : Frame) : Kept s (validFrame f s) := by
  unfold validFrame
  have h1 := modCounters_kept (s := s) fun c => { c with framesReceived := c.framesReceived + 1#32 }
  dsimp only
  split
  · exact h1
  · exact h1.trans (helloInTraining_kept _ _)
  · exact (h1.trans enterUp_kept).trans (dispatchFrame_kept _)
  · exact h1.trans (helloInUp_kept _ _)
  · exact (h1.trans (modLink_kept _)).trans (dispatchFrame_kept _)

theorem crcErrorFrame_kept : Kept s (crcErrorFrame s) := (modCounters_kept _).trans (raise_kept _)

theorem formatErrorFrame_kept : Kept s (formatErrorFrame s) := (modCounters_kept _).trans (raise_kept _)

theorem deliver_kept (f : Frame) : Kept s (deliver f s) := by
  unfold deliver
  split
  · exact validFrame_kept f
  · exact formatErrorFrame_kept

theorem deliverBytes_kept (bs : List Byte) : Kept s (deliverBytes bs s) := by
  unfold deliverBytes
  split
  · exact crcErrorFrame_kept
  · exact formatErrorFrame_kept
  · exact validFrame_kept _

theorem whenReceiving_kept {f : State → State} (h : ∀ s, Kept s (f s)) : Kept s (whenReceiving f s) := by
  unfold whenReceiving
  split
  · exact Kept.refl s
  · exact h s

/-! ### Timers -/

theorem holdExpired_kept : Kept s (holdExpired s) := by
  unfold holdExpired
  split
  · exact reseed_sourceLocal.toStreamLocal.kept.trans (requestPort_kept _ _)
  · exact Kept.refl s

theorem expireHold_kept : Kept s (expireHold s) := by
  unfold expireHold; split
  · exact holdExpired_kept
  · exact Kept.refl s

theorem expireHello_kept : Kept s (expireHello s) := by
  unfold expireHello; split
  · exact modLink_kept _
  · exact Kept.refl s

theorem expireSilence_kept : Kept s (expireSilence s) := by
  unfold expireSilence; split
  · exact dropLink_kept
  · exact Kept.refl s

theorem expireKeepalive_kept : Kept s (expireKeepalive s) := by
  unfold expireKeepalive; split
  · exact modLink_kept _
  · exact Kept.refl s

theorem expireRetx_kept (i : WinIdx) : Kept s (expireRetx i s) := by
  unfold expireRetx; split
  · split
    · exact retxExpired_kept i _
    · exact Kept.refl s
  · exact Kept.refl s

theorem expireControl_kept (i : WinIdx) : Kept s (expireControl i s) := by
  unfold expireControl; split
  · split
    · exact ctlExpired_kept i _
    · exact Kept.refl s
  · exact Kept.refl s

theorem expireAck_kept (i : WinIdx) : Kept s (expireAck i s) := by
  unfold expireAck; split
  · split
    · exact (ackExpired_sinkLocal _).toStreamLocal.kept
    · exact Kept.refl s
  · exact Kept.refl s

theorem atStream_kept (id : StreamId) {f : WinIdx → State → State} (h : ∀ i s, Kept s (f i s)) :
    Kept s (atStream id f s) := by
  unfold atStream
  split
  · exact h _ s
  · exact Kept.refl s

theorem takeDue_kept (due : Bool) {f : State → State} (h : ∀ s, Kept s (f s)) : Kept s (takeDue due f s) := by
  unfold takeDue
  split
  · exact ((h s).trans finish_kept).trans settle_kept
  · exact Kept.refl s

theorem takeDueAt_kept (i : WinIdx) : Kept s (takeDueAt s i) :=
  ((takeDue_kept _ fun _ => expireRetx_kept i).trans (takeDue_kept _ fun _ => expireControl_kept i)).trans
    (takeDue_kept _ fun _ => expireAck_kept i)

theorem takeAllDue_kept : Kept s (takeAllDue s) :=
  ((((takeDue_kept _ fun _ => expireHold_kept).trans (takeDue_kept _ fun _ => expireHello_kept)).trans
    (takeDue_kept _ fun _ => expireSilence_kept)).trans (takeDue_kept _ fun _ => expireKeepalive_kept)).trans
    (Kept.foldl (fun _ i => takeDueAt_kept i) _ _)

theorem endFrame_kept : Kept s (endFrame s) := by
  unfold endFrame
  split
  · exact Kept.of_eq rfl rfl rfl rfl rfl rfl rfl rfl
  · exact Kept.refl s

/-! ### The entry into UP -/

theorem place_modCounters (f : LinkCounters → LinkCounters) (id : StreamId) (epoch : Epoch) (b : Body) :
    place id epoch b (modCounters f s) = modCounters f (place id epoch b s) := by
  unfold place
  change (if s.link.state = .up then _ else _) = _
  split <;> rfl

theorem modSource_modCounters (f : LinkCounters → LinkCounters) (i : WinIdx) (g : SourceCtx → SourceCtx) :
    (modCounters f s).modSource i g = modCounters f (s.modSource i g) := by
  have h : (modCounters f s).source? i = s.source? i := rfl
  unfold State.modSource
  rw [h]
  split <;> rfl

theorem enterOpening_modCounters (f : LinkCounters → LinkCounters) (i : WinIdx) (r : OpenReason) :
    enterOpening i r (modCounters f s) = modCounters f (enterOpening i r s) := by
  have h : (modCounters f s).source? i = s.source? i := rfl
  unfold enterOpening
  rw [h]
  split
  · rfl
  · dsimp only
    exact place_modCounters (s := s.setEntry i _) f _ _ _

theorem sourceLinkUp_modCounters (f : LinkCounters → LinkCounters) (i : WinIdx) :
    sourceLinkUp (modCounters f s) i = modCounters f (sourceLinkUp s i) := by
  have h : (modCounters f s).source? i = s.source? i := rfl
  unfold sourceLinkUp
  rw [h]
  split
  · rfl
  · split
    · exact enterOpening_modCounters f _ _
    · dsimp only
      rw [modSource_modCounters]
      exact place_modCounters f _ _ _
    · rfl

theorem sourcesLinkUp_modCounters (f : LinkCounters → LinkCounters) (l : List WinIdx) (t : State) :
    l.foldl sourceLinkUp (modCounters f t) = modCounters f (l.foldl sourceLinkUp t) := by
  induction l generalizing t with
  | nil => rfl
  | cons i l ih => simp only [List.foldl_cons, sourceLinkUp_modCounters, ih]

/-- The entry into UP leaves the link counters to whoever counts (R85, R95). -/
theorem enterUp_modCounters (f : LinkCounters → LinkCounters) : enterUp (modCounters f s) = modCounters f (enterUp s) := by
  unfold enterUp
  generalize allWindows = l
  rw [← sourcesLinkUp_modCounters]
  rfl

end Sys2Proof.Machine
end

