-- ==== Sys2Proof/Laws/Port.lean ====
section
/-! SUPPORT. The management port: what a transaction does before and from its execution point, and what each kind of
transaction executes. -/

namespace Sys2Proof.Machine

variable {s : State}

/-- A transaction that reached its execution point (R166). -/
theorem transact_executes {execAt resultAt n : Nat} {act : State → State × Result × List Byte} (h : execAt < n) :
    transact execAt resultAt n act s = { (act s).1 with port := donePort resultAt n (act s).2.2 (act s).2.1 } := by
  simp [transact, h, donePort]

/-- A transaction whose SCS_N rose before its execution point (R166). -/
theorem transact_early {execAt resultAt n : Nat} {act : State → State × Result × List Byte} (h : n ≤ execAt) :
    transact execAt resultAt n act s = { s with port := earlyPort n } := by
  simp [transact, Nat.not_lt.mpr h, earlyPort]

/-- READ_ITEM, executed (R168). -/
theorem readTransaction_executes {item : BitVec 16} {n : Nat} (h : 2 < n) :
    readTransaction item n s =
      { (readItem item s).1 with port := donePort 8 n (be32 (readItem item s).2.2) (readItem item s).2.1 } := by
  rw [readTransaction, transact_executes h]

/-- WRITE_ITEM, executed (R169). -/
theorem writeTransaction_executes {item : BitVec 16} {v : Word} {n : Nat} (h : 6 < n) :
    writeTransaction item v n s = { (writeItem item v s).1 with port := donePort 7 n [] (writeItem item v s).2 } := by
  rw [writeTransaction, transact_executes h]; rfl

/-- STREAM_CMD, executed (R174). -/
theorem streamTransaction_executes {id op argument : Byte} {n : Nat} (h : 3 < n) :
    streamTransaction id op argument n s =
      { (streamCmd id op argument s).1 with port := donePort 4 n [] (streamCmd id op argument s).2 } := by
  rw [streamTransaction, transact_executes h]; rfl

/-- A code names the operation it is the code of. -/
theorem ofCode_code (op : StreamOp) : StreamOp.ofCode op.code.toNat = some op := by
  cases op <;> rfl

/-- A stream operation is judged by the context the lookup finds (R31, R174). -/
theorem streamCmd_of_lookup {id : StreamId} {op : StreamOp} {argument : Byte} {i : WinIdx} (h : s.lookup id = some i) :
    streamCmd (id.setWidth 8) op.code argument s = streamOp op argument i s := by
  have h1 : ¬ 15 < (id.setWidth 8).toNat := by have := id.isLt; simp; omega
  have h2 : (id.setWidth 8).setWidth 4 = id := by
    apply BitVec.eq_of_toNat_eq; have := id.isLt; simp
  unfold streamCmd
  rw [if_neg h1, ofCode_code]
  simp only [h2, h]

/-- A stream operation for an identifier that no enabled entry carries is refused (R174). -/
theorem streamCmd_of_none {id : StreamId} {op : StreamOp} {argument : Byte} (h : s.lookup id = none) :
    streamCmd (id.setWidth 8) op.code argument s = (s, .refusedState) := by
  have h1 : ¬ 15 < (id.setWidth 8).toNat := by have := id.isLt; simp; omega
  have h2 : (id.setWidth 8).setWidth 4 = id := by
    apply BitVec.eq_of_toNat_eq; have := id.isLt; simp
  unfold streamCmd
  rw [if_neg h1, ofCode_code]
  simp only [h2, h]

/-- A stream operation with an identifier above 15 is refused (R174). -/
theorem streamCmd_of_range {id op argument : Byte} (h : 15 < id.toNat) :
    streamCmd id op argument s = (s, .refusedRange) := by
  simp [streamCmd, h]

/-- An accepted write of a window entry replaces that entry alone; a refused one changes nothing (R24 to R27). -/
theorem writeEntry_cases (i : WinIdx) (x : EntryItem) (v : Word) :
    (∃ r, writeEntry i x v s = (s, r) ∧ (r = .refusedBusy ∨ r = .refusedRange ∨ r = .refusedConflict))
      ∨ writeEntry i x v s = (s.setEntry i ((s.entry i).written x v), .done)
        ∧ (s.entry i).busy = false ∧ (s.entry i).inRange x v = true
        ∧ s.conflicts i x ((s.entry i).written x v) = false := by
  unfold writeEntry
  dsimp only
  split
  · exact .inl ⟨_, rfl, .inl rfl⟩
  · split
    · exact .inl ⟨_, rfl, .inr (.inl rfl)⟩
    · split
      · exact .inl ⟨_, rfl, .inr (.inr rfl)⟩
      · exact .inr ⟨rfl, by simp_all, by simp_all, by simp_all⟩

/-- An accepted value keeps the settings valid (R173). -/
theorem settings_put_valid {x : Settings} (h : x.valid = true) {k : Setting} {v : Nat} (ha : x.accepts k v = true) :
    (x.put k v).valid = true := by
  simp only [Settings.valid, settingList, List.all_cons, List.all_nil, Bool.and_true, Bool.and_eq_true,
    decide_eq_true_eq] at h ⊢
  simp only [Settings.accepts, Bool.and_eq_true, decide_eq_true_eq] at ha
  cases k <;> simp only [Setting.range, Settings.get, Settings.put] at h ha ⊢ <;>
    (try (have : ((decide (v = 1)).toNat : Nat) ≤ 1 := Bool.toNat_le _)) <;> simp_all

end Sys2Proof.Machine
end

