-- ==== Sys2Proof/Tests/Slice0.lean ====
section
/-! SUPPORT. Tests: an ill-formed term for each check of WellFormed.lean, values the spec gives outright, and for each
statement of Obligations.lean a state and operands that meet its hypotheses, with the outcome beside them where it is
short. -/

namespace Sys2Proof.Tests

open Sys2Proof.Machine

/-! ### The states the tests stand on -/

/-- The part in UP, enabled and ready. -/
def up : State :=
  { State.reset with
    settings := { resetSettings with linkEnable := true }
    link := { State.reset.link with
      state := .up, heard := true, laneReady := true, silenceTimer := some 500, keepaliveTimer := some 100 } }

/-- The part in TRAINING. -/
def training : State :=
  { up with
    link := { State.reset.link with state := .training, laneReady := true, helloTimer := some 100 }
    ev := { up.ev with cond := Cause.linkDown.bit, pending := Cause.linkDown.bit } }

/-- Window 0 a SOURCE window of stream 0, 128 bytes from address 0. -/
def withSource (c : SourceCtx) (s : State) : State :=
  s.setEntry 0 { resetEntry 0#4 with role := .source c, length := 128#32 }

/-- Window 1 a SINK window of stream 1, 128 bytes from address 1000h. -/
def withSink (c : SinkCtx) (s : State) : State :=
  s.setEntry 1 { resetEntry 1#4 with role := .sink c, base := 0x1000#32, length := 128#32 }

/-- A record in flight of stream 0. -/
def sent (q : Seq) : Record :=
  { stream := 0#4, seq := q, kind := .write, pos := .whole, offset := 0#32, length := 4,
    data := some [1#8, 2#8, 3#8, 4#8], tag := none, status := .inFlight, sentBefore := true }

/-- A live source context with nothing in its journal. -/
def liveSource : SourceCtx :=
  { newSource 5#8 with state := .live, prior := .live, cursor := 128 }

/-- A live source context with two records in flight. -/
def busySource : SourceCtx :=
  { liveSource with queue := [sent 0#16, sent 1#16], nextSeq := 2#16, txPtr := 2#16, retxTimer := some 200 }

/-- A live sink context that has applied three records. -/
def liveSink : SinkCtx :=
  { newSink with state := .live, epoch := 7#8, expected := 3#16 }

/-- The part in UP with a live source and a live sink. -/
def both : State :=
  withSource liveSource (withSink liveSink up)

/-- The state a command leaves. -/
def after (c : Instr) (s : State) : State :=
  match exec c s with
  | .next t => t
  | _ => s

/-- A single access of 4 bytes. -/
def word (addr : Word) (dir : Dir) : Access :=
  { addr := addr, dir := dir, shape := .single 4 }

/-- A WRITE record of 4 bytes. -/
def write4 (q : Seq) (pos : RecPos) (offset : Word) : RecBody :=
  { seq := q, kind := .write, pos := pos, offset := offset, tag := 0#8, data := [1#8, 2#8, 3#8, 4#8] }

/-! ### WellFormed: each check refuses something -/

theorem test_frameError_refuses_a_valid_frame :
    (Instr.frameError (Frame.toBytes .keepalive)).wellFormed = false := by decide +kernel

theorem test_promotedFrame_refuses_five : (Instr.promotedFrame 0#4 0#8 0#16 5#8).wellFormed = false := by decide

theorem test_recordFrame_refuses_a_mark_with_data :
    (Instr.recordFrame 0#4 0#8 { write4 0#16 .whole 0#32 with kind := .mark }).wellFormed = false := by decide

theorem test_readItem_refuses_a_status_item : (Instr.readItem 0x10F0#16 8).wellFormed = false := by decide

theorem test_writeItem_refuses_items_with_a_row :
    (Instr.writeItem 0x0100#16 0#32 7).wellFormed = false ∧ (Instr.writeItem 0x0010#16 1#32 7).wellFormed = false := by
  decide

theorem test_badCommand_refuses_a_command : (Instr.badCommand 0x31#8 []).wellFormed = false := by decide

theorem test_wellFormed_accepts :
    (Instr.frameError []).wellFormed = true ∧ (Instr.promotedFrame 0#4 0#8 0#16 4#8).wellFormed = true
      ∧ (Instr.recordFrame 0#4 0#8 (write4 0#16 .whole 0#32)).wellFormed = true
      ∧ (Instr.readItem 0x1001#16 8).wellFormed = true ∧ (Instr.writeItem 0x0011#16 1#32 7).wellFormed = true
      ∧ (Instr.badCommand 0x30#8 []).wellFormed = true := by decide

/-! ### Values the spec gives outright -/

/-- The check value of R92. -/
theorem test_crc32_check_value :
    crc32 [0x31#8, 0x32#8, 0x33#8, 0x34#8, 0x35#8, 0x36#8, 0x37#8, 0x38#8, 0x39#8] = 0xFC891918#32 := by
  decide +kernel

/-- The frame layout of section 5.3: an ACK of stream 3, epoch 2, sequence number 0105h. -/
theorem test_ack_header_and_body :
    (Frame.stream 3#4 2#8 (.ack 0x0105#16)).headerAndBody = [0x21#8, 3#8, 2#8, 2#8, 0x01#8, 0x05#8] := by decide

/-- The length of a RECORD frame of 16 data bytes: 4 header, 9 and 16 body, 4 trailer bytes (section 5.3). -/
theorem test_record_frame_length :
    (Frame.stream 0#4 0#8 (.record { write4 0#16 .whole 0#32 with data := List.replicate 16 0#8 })).toBytes.length = 33 :=
  by decide +kernel

/-- A frame whose kind byte names no kind is a format error, one with a wrong trailer a CRC error (R93). -/
theorem test_receive_checks :
    receiveCheck ([0x30#8, 0#8, 0#8, 0#8] ++ be32 (crc32 [0x30#8, 0#8, 0#8, 0#8])) = .formatError
      ∧ receiveCheck [0x02#8, 0xFF#8, 0#8, 0#8, 0#8, 0#8, 0#8, 0#8] = .crcError := by decide +kernel

/-- R170: the identification item; the item map: numbers 0020h, 0120h and 100Ch are unmapped. -/
theorem test_items :
    (State.reset.itemValue .identification) = 0x41200101#32 ∧ itemOf 0x0020#16 = none ∧ itemOf 0x0120#16 = none
      ∧ itemOf 0x100C#16 = none ∧ itemOf 0x10FB#16 = some (.stream 15#4 11) := by decide

/-- The order of sequence numbers wraps (00_scope.md section 6). -/
theorem test_sequence_order :
    seqPrecedes 0xFFFF#16 0#16 = true ∧ seqPrecedes 0#16 0x7FFF#16 = true ∧ seqPrecedes 0#16 0x8000#16 = false
      ∧ seqPrecedes 0x8000#16 0#16 = false ∧ seqLe 9#16 9#16 = true := by decide

/-! ### The machine, reset and the event unit -/

/-- Witness for StepRunsFrontCommand's second clause and ConfigurationFrame. -/
theorem test_step_and_frame_witness :
    State.reset.pending = [] ∧ configures .keepaliveFrame = false ∧ configures .tick = false
      ∧ (Instr.keepaliveFrame ≠ .tick) := by decide

theorem test_configurationFrame_witness : exec .keepaliveFrame both = .next (after .keepaliveFrame both) := rfl

/-- Witness for StreamEventsTouchOneStream, at a frame and at an operation. -/
theorem test_streamEvents_witness :
    concerns 1#4 (.closeFrameAtSink 1#4 7#8 .fromLocal) = true ∧ concerns 15#4 (.openOperation 15#8 0#8 4) = true
      ∧ both.quiet = true ∧ both.link.state ≠ .training ∧ both.lookup 1#4 ≠ some 0 := by decide

theorem test_streamEvents_next_witness :
    exec (.closeFrameAtSink 1#4 7#8 .fromLocal) both = .next (after (.closeFrameAtSink 1#4 7#8 .fromLocal) both) := rfl

/-- The state with a read of address 0 presented. -/
def waiting (s : State) : State :=
  { s with bus := { s.bus with presented := some (word 0#32 .read) } }

/-- Witnesses for PinReset: RESET_N asserted, with and without an access presented, and released. -/
theorem test_pinReset_witness :
    both.calm = true ∧ (after .pinResetAssert both).resetLow = true
      ∧ (after .pinResetAssert both).bus.presented = none ∧ (word 0#32 .read).formOk = true
      ∧ (waiting (after .pinResetAssert both)).bus.presented = some (word 0#32 .read)
      ∧ (after .pinResetAssert both).txLane = .silent
      ∧ (after .pinResetRelease (after .pinResetAssert both)).txLane = .idle := by decide

/-- Witnesses for PulseLatch: the latch clear and set. -/
theorem test_pulseLatch_witness :
    let clear := State.reset.ev
    let set := clear.raise .memoryError
    clear.cond &&& Cause.memoryError.bit = 0#13 ∧ clear.pending &&& Cause.memoryError.bit = 0#13
      ∧ set.cond &&& Cause.memoryError.bit = 0#13
      ∧ set.pending &&& Cause.memoryError.bit = Cause.memoryError.bit := by decide

/-- Witnesses for ConditionLatch: the condition begins over a clear and a set latch, is acknowledged in each of its states,
ends with and without the memory, and stands still. -/
theorem test_conditionLatch_witness :
    let b := Cause.holding.bit
    let e0 := State.reset.ev
    let e1 := e0.judge b
    let e2 := e1.acknowledge b
    let e3 := e1.judge 0#13
    (e0.cond &&& b = 0#13 ∧ e0.pending &&& b = 0#13) ∧ (e1.cond &&& b = b ∧ e1.pending &&& b = b ∧ e1.ackMem &&& b = 0#13)
      ∧ (e2.cond &&& b = b ∧ e2.ackMem &&& b = b) ∧ (e3.cond &&& b = 0#13 ∧ e3.pending &&& b = b) := by decide

/-! ### Accesses -/

/-- Witnesses for AccessRefusedAtAcceptance: a misaligned read, a write to a sink, a guarded read of an unseeded copy. -/
theorem test_accessRefused_witness :
    both.calm = true ∧ both.acc = idleAccess ∧ (word 2#32 .read).formOk = false
      ∧ (word 0x1004#32 (.write 0#512)).formOk = true ∧ both.decode 0x1004#32 = some 1
      ∧ both.sink? 1 = some liveSink ∧ (word 0x1004#32 (.write 0#512)).isWrite = true := by decide

/-- The part with a guarded sink window whose context is CLOSED. -/
def guarded : State :=
  up.setEntry 1 { resetEntry 1#4 with role := .sink newSink, base := 0x1000#32, length := 128#32, readGuard := true }

theorem test_accessRefused_guard_witness :
    guarded.calm = true ∧ guarded.acc = idleAccess ∧ guarded.sink? 1 = some newSink
      ∧ (word 0x107C#32 .read).formOk = true ∧ guarded.decode 0x107C#32 = some 1
      ∧ (guarded.entry 1).readGuard = true ∧ newSink.consistent = false
      ∧ (after (.accessPresented (word 0x107C#32 .read)) guarded).caused .readRefused = true := by decide

/-- Witness for UnjournaledAccessRequestsPort: a burst read to the end of a block. -/
theorem test_unjournaled_witness :
    both.calm = true ∧ both.acc = idleAccess
      ∧ (Access.formOk { addr := 0x1040#32, dir := .read, shape := .burst 16 }) = true
      ∧ (Access.formOk { addr := 0x1044#32, dir := .read, shape := .burst 16 }) = false
      ∧ ((both.decode 0x1040#32).all fun i =>
          ((both.source? i).all fun c => !(false && c.state.journals))
            && (both.sink? i).all fun c => !(false || (both.entry i).guardsRead c)) = true := by decide

/-- A source that can give no slot: its QUOTA of 4 is taken. -/
def full (policy : Policy) (st : SrcState) (cursor : Nat) : State :=
  up.setEntry 0 { resetEntry 0#4 with
    policy := policy, quota := 4, length := 128#32
    role := .source { liveSource with
      state := st, prior := .live, cursor := cursor, nextSeq := 4#16, txPtr := 4#16
      queue := [sent 0#16, sent 1#16, sent 2#16, sent 3#16] } }

/-- Witnesses for WriteAsksForSlots: the test passes; it fails beyond the cursor; it fails under HOLD. -/
theorem test_writeAsksForSlots_witness :
    (word 0x7C#32 (.write 0#512)).formOk = true ∧ both.decode 0x7C#32 = some 0 ∧ both.source? 0 = some liveSource
      ∧ liveSource.state.journals = true ∧ both.reserveOk 0 (word 0x7C#32 (.write 0#512)).slots = true
      ∧ (full .hold .seeding 64).calm = true ∧ (full .hold .seeding 64).acc = idleAccess
      ∧ (full .hold .seeding 64).reserveOk 0 1 = false
      ∧ (full .hold .seeding 64).decode 0x40#32 = some 0 ∧ (full .hold .seeding 64).decode 0x3C#32 = some 0
      ∧ ((full .hold .seeding 64).source? 0).any (fun c =>
          c.state.journals && !c.needsRecords 0x40 && c.needsRecords 0x3C) = true
      ∧ (after (.accessPresented (word 0#32 (.write 0#512))) (full .hold .live 128)).isHeld = true := by decide

/-- Witnesses for OverflowReseeds: under SPILL at acceptance, and at the hold timer's expiry, with the link UP and not. -/
theorem test_overflow_witness :
    let spill := full .spill .live 128
    let held := { full .hold .live 128 with
      acc := { phase := .waitSlots (word 0#32 (.write 0#512)) 0, resv := none, holdTimer := some 0 }
      ev := { up.ev with cond := Cause.holding.bit } }
    spill.calm = true ∧ spill.acc = idleAccess ∧ spill.reserveOk 0 1 = false ∧ spill.decode 0#32 = some 0
      ∧ (spill.entry 0).policy = .spill ∧ (word 0#32 (.write 0#512)).formOk = true
      ∧ (spill.source? 0).any (fun c => c.state.journals && c.needsRecords 0) = true ∧ (held.source? 0).isSome = true
      ∧ spill.link.state = .up ∧ held.calm = true ∧ held.acc.holdTimer = some 0
      ∧ (State.calm { State.reset with windows := (full .spill .live 128).windows }) = true := by decide

/-- A write to the source waits for the port. -/
def requesting (a : Access) (r : Option Resv) (s : State) : State :=
  { s with acc := { phase := .requesting a, resv := r, holdTimer := none } }

/-- Witnesses for AccessGrantWithoutRecords: a read outside every window, a write in a sink window, and a guarded read of a
copy that is not consistent. -/
theorem test_grantWithoutRecords_witness :
    (requesting (word 0x2000#32 .read) none both).readyToGrant .access = true ∧ both.decode 0x2000#32 = none
      ∧ (requesting (word 0x1000#32 (.write 0#512)) none both).readyToGrant .access = true
      ∧ (requesting (word 0x1000#32 (.write 0#512)) none both).bus.presented = none
      ∧ both.decode 0x1000#32 = some 1 ∧ both.sink? 1 = some liveSink
      ∧ (requesting (word 0x107C#32 .read) none guarded).readyToGrant .access = true
      ∧ (requesting (word 0x107C#32 .read) none guarded).bus.presented = none
      ∧ (after .accessGrant (requesting (word 0x107C#32 .read) none guarded)).caused .readRefused = true := by decide

/-- R49: a burst of 17 beats' worth is never needed; 64 bytes make FIRST, MIDDLE, MIDDLE, LAST. -/
theorem test_writeRecords_witness :
    ((writeRecords 0#4 0xFFFE#16 64 (List.replicate 64 0#8)).map fun r => (r.seq, r.pos, r.length))
      = [(0xFFFE#16, .first, 16), (0xFFFF#16, .middle, 16), (0#16, .middle, 16), (1#16, .last, 16)]
      ∧ ((writeRecords 0#4 0#16 0 [7#8]).map fun r => (r.pos, r.length)) = [(.whole, 1)] := by decide +kernel

/-- Witness for AccessGrantJournals, and what it journals. -/
theorem test_grantJournals_witness :
    let a := word 0x10#32 (.write 0x04030201#512)
    let s := requesting a (some { win := 0, slots := 1 }) both
    s.readyToGrant .access = true ∧ a.formOk = true ∧ s.decode a.addr = some 0 ∧ s.source? 0 = some liveSource
      ∧ liveSource.needsRecords (s.offsetIn 0 a) = true ∧ liveSource.mergeTail a (s.offsetIn 0 a) = none
      ∧ ((after .accessGrant s).source? 0).any (fun c =>
          c.queue.map (·.data) == [some [1#8, 2#8, 3#8, 4#8]] && c.nextSeq == 1#16) = true := by decide +kernel

/-- A live source whose tail record is unsent and covers bytes 16 to 19. -/
def tailSource : SourceCtx :=
  { liveSource with
    queue := [{ sent 0#16 with offset := 16#32, status := .ready, sentBefore := false }], nextSeq := 1#16, txPtr := 0#16 }

/-- Witnesses for the first clause of AccessGrantJournals: a byte behind a gap, a run of 17 bytes, a run over two blocks, a
record in flight, a MARK and an empty queue; one byte nearer each of the first three would merge. -/
theorem test_noMerge_witness :
    let at' (n : Nat) : Access := { addr := BitVec.ofNat 32 n, dir := .write 9#512, shape := .single 1 }
    let tail (r : Record) : SourceCtx := { tailSource with queue := [r] }
    let long : Record := { sent 0#16 with
      offset := 16#32, length := 16, status := .ready, sentBefore := false, data := some (List.replicate 16 0#8) }
    let edge : Record := { sent 0#16 with offset := 60#32, status := .ready, sentBefore := false }
    (at' 21).isWrite = true ∧ tailSource.mergeTail (at' 21) 21 = none ∧ (tailSource.mergeTail (at' 20) 20).isSome = true
      ∧ (tail long).mergeTail (at' 32) 32 = none ∧ ((tail long).mergeTail (at' 31) 31).isSome = true
      ∧ (tail edge).mergeTail (at' 64) 64 = none ∧ ((tail edge).mergeTail (at' 63) 63).isSome = true
      ∧ busySource.mergeTail (at' 4) 4 = none ∧ (tail (markRecord 0#4 0#16 1#8)).mergeTail (at' 0) 0 = none
      ∧ liveSource.mergeTail (at' 0) 0 = none := by decide +kernel

/-- Witness for AccessGrantMerges: a byte that abuts the tail record, while another frame is in transmission. -/
theorem test_grantMerges_witness :
    let a : Access := { addr := 0x14#32, dir := .write 9#512, shape := .single 1 }
    let s := requesting a (some { win := 0, slots := 1 }) (withSource tailSource up)
    s.readyToGrant .access = true ∧ a.formOk = true ∧ s.decode a.addr = some 0 ∧ s.source? 0 = some tailSource
      ∧ tailSource.needsRecords (s.offsetIn 0 a) = true
      ∧ ((after .accessGrant s).source? 0).any (fun c =>
          c.queue.map (·.data) == [some [1#8, 2#8, 3#8, 4#8, 9#8]] && c.merges == 1#32) = true := by decide +kernel

/-- A granted write of the source. -/
def granted (j : Option Journaled) : State :=
  let a := word 0#32 (.write 0#512)
  { both with
    acc := { phase := .granted a j, resv := none, holdTimer := none }, arb := { both.arb with op := some (accessOp a) } }

/-- Witnesses for AccessAnswered: a write that was journaled in the present epoch, one that was not, and a read that waits
presented. -/
theorem test_accessAnswered_witness :
    (granted none).calm = true ∧ (granted none).bus.presented = none
      ∧ (granted (some { win := 0, epoch := 5#8 })).calm = true
      ∧ (granted (some { win := 0, epoch := 5#8 })).source? 0 = some liveSource
      ∧ (waiting (granted none)).calm = true
      ∧ (after (.accessAnswer .ok 0#512) (waiting (granted none))).bus
        = { presented := none, responses := [{ ok := true, data := [] }] }
      ∧ (accessOp (word 0#32 (.write 0#512))).requester = .access ∧ liveSource.epoch = 5#8
      ∧ liveSource.state.journals = true := by decide

/-- Witnesses for AccessAnswered's first clause: an access held across a pin reset, whose memory operation is in progress
again when the late answer to the old one comes, and what the late answer leaves. -/
theorem test_lateAnswer_witness :
    let s := after .pinResetRelease (waiting (after .pinResetAssert (granted none)))
    let t := after .accessGrant s
    t.arb.op.map (·.requester) = some .access ∧ t.calm = true ∧ (after (.accessAnswer .late 0#512) t).arb.op = t.arb.op
      ∧ (after (.accessAnswer .late 0#512) t).acc = t.acc ∧ (after (.accessAnswer .ok 0#512) t).acc = idleAccess := by
  decide

/-! ### Seeding and the slot arbiter -/

/-- A source in SEEDING. -/
def seeding (cursor : Nat) : SourceCtx :=
  { newSource 5#8 with state := .seeding, cursor := cursor }

/-- The seed engine asks for the port with `k` slots. -/
def seedAsks (k cursor : Nat) : State :=
  { withSource (seeding cursor) up with
    seed := { phase := .portWait, active := some 0, chunkCount := 0, resv := some { win := 0, slots := k },
              flight := none, queue := [] } }

/-- A write to byte 0 waits for the port with no reservation, the QUOTA being 4. -/
def seedAsksOverWrite : State :=
  { requesting (word 0#32 (.write 0#512)) none
      (up.setEntry 0 { resetEntry 0#4 with role := .source (seeding 0), length := 128#32, quota := 4 }) with
    seed := (seedAsks 4 0).seed
    arb := { order := [.seed, .access, .apply], op := none } }

/-- Witnesses for SeedGrant: a last chunk with five slots, and a write the cursor passes. -/
theorem test_seedGrant_witness :
    (seedAsks 5 64).readyToGrant .seed = true ∧ (seedAsks 5 64).source? 0 = some (seeding 64)
      ∧ ((after .seedGrant (seedAsks 5 64)).source? 0).any (fun c => c.cursor == 128 && c.queue.length == 4) = true
      ∧ seedAsksOverWrite.readyToGrant .seed = true ∧ seedAsksOverWrite.decode 0#32 = some 0
      ∧ (seedAsksOverWrite.entry 0).quota < seedAsksOverWrite.recordCount 0 + 4 + 1
      ∧ (after .seedGrant seedAsksOverWrite).isHeld = true := by decide

/-- A write to byte 0 waits while a chunk is to be read from the cursor 0, the engine's request standing first. -/
def overWrite (r : Option Resv) (policy : Policy) (quota : Nat) : State :=
  { seedAsksOverWrite with
    acc := { seedAsksOverWrite.acc with resv := r }
    windows := (seedAsksOverWrite.setEntry 0 { seedAsksOverWrite.entry 0 with policy := policy, quota := quota }).windows }

/-- Further witnesses for SeedGrant: a write that waits with its reservation, one beyond the cursor, and one that the cursor
passes with a slot to be had and, under SPILL, with none. -/
theorem test_seedGrant_overWrite_witness :
    let kept := overWrite (some { win := 0, slots := 1 }) .hold 64
    let beyond := { overWrite none .hold 64 with
      acc := { phase := .requesting (word 0x40#32 (.write 0#512)), resv := none, holdTimer := none } }
    kept.readyToGrant .seed = true ∧ (after .seedGrant kept).acc = kept.acc
      ∧ beyond.readyToGrant .seed = true ∧ beyond.decode 0x40#32 = some 0
      ∧ SourceCtx.needsRecords { seeding 0 with cursor := 64 } 0x40 = false
      ∧ (after .seedGrant beyond).acc = beyond.acc
      ∧ (overWrite none .hold 64).readyToGrant .seed = true ∧ (overWrite none .hold 64).reserveOk 0 1 = true
      ∧ (after .seedGrant (overWrite none .hold 64)).acc.resv = some { win := 0, slots := 1 }
      ∧ (overWrite none .spill 4).readyToGrant .seed = true ∧ (overWrite none .spill 4).reserveOk 0 1 = false
      ∧ (after .seedGrant (overWrite none .spill 4)).seed.flight
        = some { win := 0, first := 0#16, fifth := false, orphan := true } := by decide +kernel

/-- A chunk read is in flight for window 0. -/
def reading (fifth orphan : Bool) (cursor : Nat) : State :=
  { withSource { seeding cursor with
      queue := chunkRecords 0#4 0#16 (cursor - 64), nextSeq := 4#16, txPtr := 0#16 } up with
    seed := { phase := .reading, active := some 0, chunkCount := 1,
              resv := if fifth then some { win := 0, slots := 1 } else none
              flight := some { win := 0, first := 0#16, fifth := fifth, orphan := orphan }, queue := [] }
    arb := { order := [.access, .apply, .seed]
             op := some { requester := .seed, addr := 0#32, isWrite := false, len := 64, bytes := [] } } }

/-- Witnesses for SeedAnswerFillsChunk, at the first count and at the end of a quantum while window 1 waits. -/
theorem test_seedAnswerFills_witness :
    (reading false false 64).calm = true ∧ (reading false false 64).seed.chunkCount < 16
      ∧ ((reading false false 64).source? 0).any (fun c => c.cursor != 128) = true
      ∧ (State.calm { reading false false 64 with
          seed := { (reading false false 64).seed with chunkCount := 16, queue := [0] } }) = true
      ∧ ((after (.seedReadAnswer .ok 0xFF#512) (reading false false 64)).source? 0).any (fun c =>
          c.queue.all (fun r => r.status == .ready) &&
            (c.queue.head?.map (·.data)) == some (some (0xFF#8 :: List.replicate 15 0#8)))
        = true := by decide +kernel

/-- The read in flight is of a stream that a suspension has taken from the engine, with streams that wait. -/
def readingLeft (queue : List WinIdx) : State :=
  let s := reading false false 64
  { s with seed := { s.seed with active := none, chunkCount := 0, queue := queue } }

/-- Witnesses for SeedAnswerFillsChunk where the stream has been suspended: an empty queue, and the stream back in it. -/
theorem test_seedAnswerFills_suspended_witness :
    (readingLeft []).calm = true ∧ (readingLeft [0]).calm = true ∧ ((readingLeft [0]).source? 0).isSome = true
      ∧ (after (.seedReadAnswer .ok 0#512) (readingLeft [])).seed.phase = .idle
      ∧ (after (.seedReadAnswer .ok 0#512) (readingLeft [0])).seed.active = some 0
      ∧ ((after (.seedReadAnswer .ok 0#512) (readingLeft [])).source? 0).any (fun c =>
          c.queue.all (·.status == .ready)) = true := by decide +kernel

/-- The end of a walk with no fifth slot held, under a QUOTA. -/
def readingLast (quota : Nat) : State :=
  let s := reading false false 128
  s.setEntry 0 { s.entry 0 with quota := quota }

/-- Witnesses for SeedAnswerEndsWalk: from the fifth slot, from a slot that passes the test, and END_WAIT under QUOTA 4. -/
theorem test_seedAnswerEnds_witness :
    (reading true false 128).calm = true ∧ (reading true false 128).seed.queue = []
      ∧ ((reading true false 128).source? 0).any (fun c => c.cursor == 128) = true
      ∧ ((after (.seedReadAnswer .ok 0#512) (reading true false 128)).source? 0).any (fun c =>
          c.queue.map (·.kind) == [.seed, .seed, .seed, .seed, .seedEnd]) = true
      ∧ (readingLast 5).calm = true ∧ (readingLast 5).reserveOk 0 1 = true
      ∧ (readingLast 4).calm = true ∧ (readingLast 4).reserveOk 0 1 = false
      ∧ (after (.seedReadAnswer .ok 0#512) (readingLast 5)).seed.phase = .idle
      ∧ (after (.seedReadAnswer .ok 0#512) (readingLast 4)).seed.phase = .endWait := by decide

/-- Witnesses for SeedAnswerOrphanedOrError. -/
theorem test_seedAnswerOther_witness :
    (reading false true 64).calm = true ∧ (reading false false 64).calm = true
      ∧ (after (.seedReadAnswer .error 0#512) (reading false true 64)).caused .streamFault = false
      ∧ (after (.seedReadAnswer .error 0#512) (reading false false 64)).caused .streamFault = true := by decide

/-- A write is held and the seed engine waits, and slots have been released. -/
def offered (held seed : Bool) : State :=
  { withSource (seeding 64) up with
    acc := if held then { phase := .waitSlots (word 0#32 (.write 0#512)) 0, resv := none, holdTimer := some 7 }
      else idleAccess
    seed := { phase := .slotWait, active := some 0, chunkCount := 0, resv := none, flight := none, queue := [] }
    offers := { held := held, seed := seed } }

/-- Witnesses for SlotOffers, the engine in SLOT_WAIT and in END_WAIT, with a slot to be had and with none. -/
theorem test_slotOffers_witness :
    (offered true true).heldOfferDue = true ∧ (offered false true).heldOfferDue = false
      ∧ (offered false true).seedOfferDue = true ∧ (offered false true).bus.presented = none
      ∧ (after .slotOfferHeldWrite (offered true true)).acc.resv = some { win := 0, slots := 1 }
      ∧ (after .slotOfferSeed (offered false true)).seed.resv = some { win := 0, slots := 5 }
      ∧ (after .slotOfferSeed (offered true true)).acc.resv = some { win := 0, slots := 1 }
      ∧ (after .slotOfferSeed (offered true true)).seed.resv = some { win := 0, slots := 5 }
      ∧ (let w (q : Nat) : State := { readingLast q with
          seed := { (offered false true).seed with phase := .endWait }, offers := { held := false, seed := true } }
        (w 5).seedOfferDue = true ∧ (w 5).reserveOk 0 1 = true ∧ (w 4).seedOfferDue = true
          ∧ (w 4).reserveOk 0 1 = false ∧ (after .slotOfferSeed (w 5)).seed.phase = .idle
          ∧ (after .slotOfferSeed (w 4)).seed.phase = .endWait) := by decide

/-! ### Applying -/

/-- The apply engine serves the record at expected seq of the live sink. -/
def serving (phase : ApplyPhase) (under : Bool) (st : SinkState) : State :=
  let r := write4 3#16 .whole 8#32
  { withSink { liveSink with state := st, prior := .live, held := [{ body := r, underOp := under }], ackCount := 7 } up with
    apply := { phase := phase, served := some { win := 1, id := 1#4, epoch := 7#8, recs := [r] }, last := 1#4 }
    arb := { order := [.access, .seed, .apply]
             op := if under then some { requester := .apply, addr := 0x1008#32, isWrite := true, len := 4,
                                        bytes := r.data } else none } }

/-- Witness for ApplyGrant. -/
theorem test_applyGrant_witness :
    (serving .portWait false .live).readyToGrant .apply = true
      ∧ ((serving .portWait false .live).sink? 1).isSome = true
      ∧ ((after .applyGrant (serving .portWait false .live)).arb.op.map (·.addr)) = some 0x1008#32 := by decide

/-- Witnesses for ApplyAnswered: a context that holds the head, LIVE and SUSPENDED, and one that no longer does. -/
theorem test_applyAnswered_witness :
    (serving .writing true .live).calm = true ∧ (serving .writing true .suspended).calm = true
      ∧ ((serving .writing true .live).sink? 1).all (fun c => (serving .writing true .live).apply.served.all fun v =>
          c.stillHolds v && (c.held.all fun h => v.recs.any (·.seq == h.body.seq))) = true
      ∧ (State.calm { serving .writing true .live with windows := both.windows }) = true
      ∧ liveSink.stillHolds { win := 1, id := 1#4, epoch := 7#8, recs := [write4 3#16 .whole 8#32] } = false
      ∧ (after (.applyAnswer .ok) (serving .writing true .live)).ackFlag 1#4
        = some { isNak := false, seq := 3#16, epoch := 7#8 } := by decide

/-- The apply in progress of a sink context, with a further record held behind its own, and a flag of the stream. -/
def servingThen (m : RecBody) (st : SinkState) (g : Option AckFlag) : State :=
  let s := serving .writing true st
  let t := s.modSink 1 fun c => { c with held := c.held ++ [{ body := m, underOp := false }], ackCount := 0 }
  setAckFlag 1#4 g { t with sched := { t.sched with tx := some .keepalive } }

/-- Further witnesses for ApplyAnswered: a MARK and a SEED_END held next, a LAST there, and an unsent ACK and NAK. -/
theorem test_applyAnswered_next_witness :
    let mark : RecBody := { write4 4#16 .whole 0#32 with kind := .mark, data := [] }
    let a := servingThen mark .live none
    let b := servingThen { mark with kind := .seedEnd } .seeding none
    let d := servingThen (write4 4#16 .last 0#32) .live none
    let ack := servingThen (write4 6#16 .whole 0#32) .live (some { isNak := false, seq := 2#16, epoch := 7#8 })
    let nak := servingThen (write4 6#16 .whole 0#32) .live (some { isNak := true, seq := 3#16, epoch := 7#8 })
    a.calm = true ∧ b.calm = true ∧ d.calm = true ∧ ack.calm = true ∧ nak.calm = true
      ∧ ((a.sink? 1).bind fun c => a.apply.served.map fun v => (c.stillHolds v,
          (c.held.filter fun h => v.recs.all fun r => h.body.seq ≠ r.seq) == [{ body := mark, underOp := false }]))
        = some (true, true)
      ∧ ((after (.applyAnswer .ok) a).sink? 1).any (fun c => c.expected == 5#16 && c.held.isEmpty) = true
      ∧ (after (.applyAnswer .ok) a).ackFlag 1#4 = some { isNak := false, seq := 4#16, epoch := 7#8 }
      ∧ ((after (.applyAnswer .ok) b).sink? 1).any (·.state == .live) = true
      ∧ SinkCtx.head { liveSink with held := [{ body := write4 4#16 .last 0#32, underOp := false }], expected := 4#16 }
        = .unusable
      ∧ (after (.applyAnswer .ok) d).ackFlag 1#4 = some { isNak := true, seq := 4#16, epoch := 7#8 }
      ∧ (after (.applyAnswer .ok) ack).ackFlag 1#4 = some { isNak := false, seq := 3#16, epoch := 7#8 }
      ∧ (after (.applyAnswer .ok) nak).ackFlag 1#4 = some { isNak := true, seq := 3#16, epoch := 7#8 } := by decide

/-! ### The lane, training and received frames -/

/-- DOWN with the link enabled. -/
def downEnabled : State :=
  { up with
    link := { State.reset.link with laneReady := false }
    ev := { up.ev with cond := Cause.linkDown.bit, pending := Cause.linkDown.bit } }

/-- Witnesses for LaneReady. -/
theorem test_laneReady_witness :
    downEnabled.calm = true ∧ downEnabled.link.state = .down ∧ downEnabled.settings.linkEnable = true
      ∧ State.reset.calm = true ∧ State.reset.settings.linkEnable = false ∧ both.calm = true ∧ both.link.state = .up
      ∧ training.calm = true ∧ training.link.state = .training
      ∧ ((after .laneReadyFall both).source? 0).any (fun c => c.state == .suspended && c.prior == .live) = true := by
  decide

/-- Witnesses for SuspensionAtSeedEngine: the engine in SLOT_WAIT, PORT_WAIT, READING and END_WAIT. -/
theorem test_suspension_witness :
    let busy (s : State) : State := { s with arb := (reading false false 64).arb }
    let ends : State := { offered false false with seed := { (offered false false).seed with phase := .endWait } }
    (offered false false).calm = true ∧ (busy (seedAsks 5 64)).calm = true ∧ (reading true false 128).calm = true
      ∧ ends.calm = true ∧ (after .laneReadyFall (offered false false)).seed.phase = .idle
      ∧ (after .laneReadyFall (busy (seedAsks 5 64))).seed.resv = none
      ∧ (after .laneReadyFall (reading true false 128)).seed.resv = some { win := 0, slots := 1 }
      ∧ (after .laneReadyFall ends).seed = ends.seed := by decide

/-- Witnesses for SuspensionAtSeedEngine's other ways out of UP. -/
theorem test_suspension_ways_witness :
    let s : State := { offered false false with link := { up.link with silenceTimer := some 0 } }
    s.quiet = true ∧ s.settings.linkEnable = true
      ∧ ([Instr.silenceTimerExpiry, .helloFrame 1#8 false, .linkEnableWrite 0#32 7, .linkRestart 1].all fun cmd =>
          (after cmd s).seed.phase == .idle && (after cmd s).link.state != .up) = true := by decide

/-- Witnesses for HelloInTraining, with a PENDING, a SUSPENDED and a CLOSED source. -/
theorem test_hello_witness :
    let s (st : SrcState) := withSource { newSource 5#8 with state := st, openReason := some .new } training
    (s .pending).calm = true ∧ (s .pending).windowsValid = true ∧ (s .suspended).calm = true ∧ (s .closed).calm = true
      ∧ (after (.helloFrame 1#8 true) (s .pending)).link.state = .up
      ∧ (after (.helloFrame 1#8 true) (s .pending)).ctlSlot 0#4
        = some { epoch := 6#8, body := .openReq 128#32 .new } := by decide

/-- Witnesses for the stream frames of LinkFramesInUp: in TRAINING, with the transmitter busy and free. -/
theorem test_streamFrame_in_training_witness :
    let s (st : SinkState) : State := withSink { liveSink with state := st, prior := .live } training
    let b : State := { s .closed with sched := { training.sched with tx := some .keepalive } }
    b.calm = true ∧ (enterUp b).settled = true ∧ (s .closed).calm = true ∧ (s .suspended).calm = true
      ∧ (s .closed).windowsValid = true ∧ (s .closed).lookup 1#4 = some 1 ∧ (s .closed).lookup 9#4 = none
      ∧ (s .closed).link.state = .training ∧ (Frame.stream 1#4 8#8 (.openReq 128#32 .new)).formatOk = true
      ∧ ((after (.openFrame 1#4 8#8 128#32 .new) (s .closed)).sink? 1).any (fun c => c.state == .seeding) = true
      ∧ ((after (.reopenFrame 1#4 7#8 3#16 3#16) (s .suspended)).sink? 1).any (fun c => c.state == .live) = true := by
  decide

/-- Witnesses for LinkFramesInUp. -/
theorem test_linkFrames_witness :
    both.calm = true ∧ both.link.state = .up ∧ both.settings.linkEnable = true ∧ both.link.laneReady = true
      ∧ (2#8 : Byte) ≠ 1#8 ∧ training.calm = true
      ∧ (after (.helloFrame 1#8 false) both).link.state = .training
      ∧ (after .keepaliveFrame training).link.state = .up := by decide

/-- Witnesses for FramesDiscarded: each stage, DOWN, a reply without a source, one of another epoch and one that LIVE does
not take, and a RECORD of another epoch. -/
theorem test_framesDiscarded_witness :
    receiveCheck [] = .crcError
      ∧ receiveCheck ([0x30#8, 0#8, 0#8, 0#8] ++ be32 (crc32 [0x30#8, 0#8, 0#8, 0#8])) = .formatError
      ∧ State.reset.calm = true ∧ State.reset.link.state = .down
      ∧ (Frame.stream 1#4 7#8 (.ack 0#16)).formatOk = true ∧ both.findsSource 1#4 = none
      ∧ both.lookup 0#4 = some 0 ∧ liveSource.epoch ≠ 6#8 ∧ liveSource.state.takes .openAccept = false
      ∧ liveSource.state.takes (.ack 0#16) = true ∧ both.lookup 1#4 = some 1 ∧ liveSink.epoch ≠ 6#8
      ∧ (after (.openAcceptFrame 0#4 5#8) both).link.counters.staleFrames = 1#32
      ∧ (after (.recordFrame 1#4 6#8 (write4 3#16 .whole 0#32)) both).link.counters.staleFrames = 1#32 := by
  decide +kernel

/-- Witnesses for OpenFrame: no window, a SOURCE window, another LENGTH, a repeated OPEN, a new pairing. -/
theorem test_openFrame_witness :
    both.calm = true ∧ both.lookup 9#4 = none ∧ both.lookup 0#4 = some 0 ∧ both.source? 0 = some liveSource
      ∧ both.lookup 1#4 = some 1 ∧ both.sink? 1 = some liveSink ∧ (64#32 : Word) ≠ (both.entry 1).length
      ∧ (128#32 : Word) = (both.entry 1).length
      ∧ (withSink { liveSink with state := .seeding } up).calm = true
      ∧ (after (.openFrame 1#4 8#8 128#32 .new) both).ctlSlot 1#4 = some { epoch := 8#8, body := .openAccept } := by
  decide

/-- A source in a given state, as it is while the link is UP. -/
def source (st : SrcState) : State :=
  withSource { liveSource with state := st, ctlTimer := some 1000, triesLeft := 2, openReason := some .new } up

/-- Witnesses for OpenReplies, with the seed engine IDLE and not. -/
theorem test_openReplies_witness :
    (source .opening).calm = true ∧ (source .opening).lookup 0#4 = some 0 ∧ (source .opening).seed.phase = .idle
      ∧ (State.calm { source .opening with seed := { (seedAsks 4 0).seed with phase := .endWait, resv := none } }) = true
      ∧ ((after (.openAcceptFrame 0#4 5#8) (source .opening)).source? 0).any (fun c => c.state == .seeding) = true
      ∧ ((after (.openRefuseFrame 0#4 5#8 .notSink) (source .opening)).source? 0).any (fun c =>
          c.faultReason == .refusedNotSink) = true := by decide

/-- Witnesses for ReopenFrame: a promoted window, a sink in range, and the three ways to STALE. -/
theorem test_reopenFrame_witness :
    let promoted := up.setEntry 0 { resetEntry 0#4 with
      role := .source (newSource 5#8), promotion := some { epoch := 5#8, lastApplied := 2#16, discarded := 0 } }
    promoted.calm = true ∧ promoted.lookup 0#4 = some 0 ∧ promoted.source? 0 = some (newSource 5#8)
      ∧ seqLe 3#16 liveSink.appliedPoint = true ∧ seqLe liveSink.appliedPoint 3#16 = true
      ∧ seqLe 4#16 liveSink.appliedPoint = false ∧ seqLe liveSink.appliedPoint 2#16 = false
      ∧ both.lookup 9#4 = none ∧ (both.entry 0).promotion = none
      ∧ (withSink newSink up).calm = true := by decide

/-- Witnesses for ReopenReplyFrame: CONTINUE at both ends of the range and beyond it, and STALE. -/
theorem test_reopenReply_witness :
    let c := { busySource with state := .resuming, queue := busySource.queue.map Record.toReady }
    let s := withSource c up
    s.calm = true ∧ s.lookup 0#4 = some 0 ∧ s.source? 0 = some c
      ∧ ((0#16 : Seq) - c.oldest).toNat ≤ (c.nextSeq - c.oldest).toNat
      ∧ ((2#16 : Seq) - c.oldest).toNat ≤ (c.nextSeq - c.oldest).toNat
      ∧ (c.nextSeq - c.oldest).toNat < ((3#16 : Seq) - c.oldest).toNat
      ∧ ((after (.reopenReplyFrame 0#4 5#8 .continues 2#16) s).source? 0).any (fun d =>
          d.state == .live && d.queue.isEmpty) = true := by decide

/-- Witnesses for ReopenReplyFrame where a MARK and a SEED_END are freed, and where a walk goes on. -/
theorem test_reopenReply_freed_witness :
    let c : SourceCtx := { newSource 5#8 with
      state := .resuming, cursor := 128, nextSeq := 2#16, fence := some 9#8
      queue := [markRecord 0#4 0#16 9#8, seedEndRecord 0#4 1#16 128#32] }
    let s := withSource c up
    let w := withSource { c with cursor := 64 } up
    s.calm = true ∧ freedMark (c.queue.take 2) = some 9#8 ∧ w.calm = true ∧ w.seed.phase = .idle
      ∧ ((after (.reopenReplyFrame 0#4 5#8 .continues 2#16) s).source? 0).any (fun d =>
          d.state == .live && d.lastFence == some (.completed, 9#8)) = true
      ∧ (after (.reopenReplyFrame 0#4 5#8 .continues 2#16) s).caused .streamLive = true
      ∧ (after (.reopenReplyFrame 0#4 5#8 .continues 1#16) w).seed.active = some 0 := by decide

/-- Witnesses for CloseFrames. -/
theorem test_closeFrames_witness :
    (source .opening).calm = true ∧ (source .closing).calm = true ∧ both.calm = true ∧ both.lookup 1#4 = some 1
      ∧ liveSink.state ≠ .closed ∧ both.lookup 9#4 = none
      ∧ ((after (.closeAckFrame 0#4 5#8) (source .closing)).source? 0).any (fun c => c.state == .closed) = true
      ∧ (after (.closeFrameAtSink 1#4 7#8 .fromLocal) both).caused .streamClosed = true
      ∧ ((after (.closeFrameAtSource 0#4 5#8 .notOpen) both).source? 0).any (fun c =>
          c.faultReason == .peerClosed) = true := by decide

/-- Witnesses for PromotedFrame, with YIELD on and off, open and closing, and a fence among the freed records. -/
theorem test_promotedFrame_witness :
    let yielding := up.setEntry 0 { resetEntry 0#4 with role := .source liveSource, yieldOn := true }
    let fenced := { liveSource with
      queue := [{ markRecord 0#4 0#16 9#8 with status := .inFlight }], nextSeq := 1#16, txPtr := 1#16, fence := some 9#8 }
    yielding.calm = true ∧ (withSource fenced up).calm = true ∧ freedMark fenced.queue = some 9#8
      ∧ (source .closing).calm = true ∧ (4#8 : Byte).toNat ≤ 4
      ∧ (after (.promotedFrame 0#4 5#8 0#16 0#8) yielding).sink? 0 = some newSink
      ∧ ((after (.promotedFrame 0#4 5#8 0#16 0#8) (withSource fenced up)).source? 0).any (fun c =>
          c.lastFence == some (.completed, 9#8)) = true := by decide

/-- Witnesses for RecordTurnedAway: misplaced, held already, just before and just beyond the window, no open sink, and a
window promoted in the epoch. -/
theorem test_recordTurnedAway_witness :
    let one := withSink { liveSink with held := [{ body := write4 6#16 .whole 0#32, underOp := false }] } up
    both.calm = true ∧ one.calm = true ∧ (write4 3#16 .whole 0#32).formatOk = true
      ∧ misplaced 128#32 (write4 3#16 .whole 125#32) = true ∧ misplaced 128#32 (write4 3#16 .whole 124#32) = false
      ∧ misplaced 128#32 (write4 3#16 .whole 62#32) = true
      ∧ (one.sink? 1).all (fun c => (c.heldAt 6#16).isSome && ((6#16 : Seq) - c.expected).toNat == 3) = true
      ∧ seqPrecedes 2#16 liveSink.expected = true ∧ both.ackFlag 1#4 = none
      ∧ ((7#16 : Seq) - liveSink.expected).toNat = 4 ∧ seqPrecedes 7#16 liveSink.expected = false
      ∧ (withSink newSink up).calm = true ∧ (both.entry 0).promotion = none
      ∧ (let p := up.setEntry 0 { resetEntry 0#4 with
          role := .source (newSource 5#8), promotion := some { epoch := 5#8, lastApplied := 2#16, discarded := 1 } }
        p.calm = true ∧ p.lookup 0#4 = some 0 ∧ p.source? 0 = some (newSource 5#8)
          ∧ (after (.recordFrame 0#4 5#8 (write4 3#16 .whole 0#32)) p).ctlSlot 0#4
            = some { epoch := 5#8, body := .promoted 2#16 1#8 }) := by decide

/-- Witnesses for RecordHeld: at expected seq, at the far end of the window, SUSPENDED, and a FIRST that waits. -/
theorem test_recordHeld_witness :
    let first := withSink { liveSink with held := [{ body := write4 3#16 .first 0#32, underOp := false }] } up
    first.calm = true ∧ (withSink { liveSink with state := .suspended, prior := .live } up).calm = true
      ∧ ((6#16 : Seq) - liveSink.expected).toNat < 4 ∧ misplaced 128#32 (write4 6#16 .whole 124#32) = false
      ∧ (after (.recordFrame 1#4 7#8 (write4 6#16 .whole 124#32)) both).ackFlag 1#4
        = some { isNak := true, seq := 3#16, epoch := 7#8 }
      ∧ ((after (.recordFrame 1#4 7#8 (write4 4#16 .last 4#32)) first).apply.served.map (·.recs)) = some
        [write4 3#16 .first 0#32, write4 4#16 .last 4#32] := by decide

/-- Witnesses for MarkerApplied: a MARK in LIVE and a SEED_END in SEEDING. -/
theorem test_marker_witness :
    let mark : RecBody := { write4 3#16 .whole 0#32 with kind := .mark, data := [] }
    let ending : RecBody := { mark with kind := .seedEnd }
    let s := withSink { liveSink with state := .seeding } up
    mark.formatOk = true ∧ ending.formatOk = true ∧ both.calm = true ∧ s.calm = true ∧ s.ackFlag 1#4 = none
      ∧ ((after (.recordFrame 1#4 7#8 ending) s).sink? 1).any (fun c => c.state == .live && c.expected == 4#16) = true := by
  decide

/-- The states a source context can be in while the link is UP, and those it rests in. -/
def sourceStates : List SrcState :=
  [.closed, .pending, .opening, .seeding, .live, .suspended, .resuming, .closing, .fault]

/-- Witnesses for the clauses of LaneReady, CloseFrames, PromotedFrame and SourceOperations that name a context's state. -/
theorem test_every_source_state_witness :
    (sourceStates.all fun st => (source st).quiet && ((source st).source? 0).any fun c => c.state == st) = true
      ∧ ([SinkState.closed, .seeding, .live, .suspended].all fun st =>
          (withSink { liveSink with state := st } up).quiet
            && ((withSink { liveSink with state := st } up).sink? 1).any fun c => c.state == st) = true := by decide

/-- Witnesses for RecordHeld and StreamTimers: a NAK outstanding, a FIRST and a LAST at expected seq, and an unsent NAK in
the flag while a frame is in transmission. -/
theorem test_nak_outstanding_witness :
    let nak := setAckFlag 1#4 (some { isNak := true, seq := 3#16, epoch := 7#8 })
      (withSink { liveSink with nakOutstanding := true, ackTimer := some 0 } up)
    let s := { nak with sched := { nak.sched with tx := some .keepalive } }
    (withSink { liveSink with nakOutstanding := true } up).calm = true ∧ s.calm = true
      ∧ s.ackFlag 1#4 = some { isNak := true, seq := 3#16, epoch := 7#8 }
      ∧ (after (.ackTimerExpiry 1#4) s).ackFlag 1#4 = s.ackFlag 1#4
      ∧ (write4 3#16 .first 0#32).formatOk = true ∧ (write4 3#16 .last 0#32).formatOk = true
      ∧ ((after (.recordFrame 1#4 7#8 (write4 3#16 .last 0#32)) both).sink? 1).any (fun c =>
          c.held.isEmpty && c.nakOutstanding) = true := by decide

/-! ### Acknowledgements and timers of a source stream -/

/-- Witnesses for AckAndNakFrames: at both ends of the range and beyond it, with a MARK and a SEED_END freed. -/
theorem test_ackNak_witness :
    let s := withSource busySource up
    let marked := withSource { busySource with
      state := .seeding, fence := some 9#8
      queue := [{ markRecord 0#4 0#16 9#8 with status := .inFlight },
                { seedEndRecord 0#4 1#16 128#32 with status := .inFlight }] } up
    s.calm = true ∧ marked.calm = true
      ∧ ((1#16 : Seq) - busySource.oldest).toNat < (busySource.txPtr - busySource.oldest).toNat
      ∧ (busySource.txPtr - busySource.oldest).toNat ≤ ((2#16 : Seq) - busySource.oldest).toNat
      ∧ ((2#16 : Seq) - busySource.oldest).toNat ≤ (busySource.txPtr - busySource.oldest).toNat
      ∧ (busySource.txPtr - busySource.oldest).toNat < ((3#16 : Seq) - busySource.oldest).toNat
      ∧ ((after (.ackFrame 0#4 5#8 1#16) marked).source? 0).any (fun c =>
          c.state == .live && c.lastFence == some (.completed, 9#8)) = true
      ∧ ((after (.nakFrame 0#4 5#8 1#16) s).source? 0).any (fun c => c.txPtr == 1#16 && c.queue.length == 1) = true := by
  decide

/-- Witnesses for StreamTimers: the last retry and the limit, tries left and none, and the ack timer. -/
theorem test_streamTimers_witness :
    let retx (n : Nat) := withSource { busySource with retxTimer := some 0, retryCount := n } up
    let ctl (st : SrcState) (n : Nat) :=
      withSource { liveSource with state := st, ctlTimer := some 0, triesLeft := n, openReason := some .new } up
    let ack := withSink { liveSink with ackTimer := some 0, ackCount := 1 } up
    (retx 7).calm = true ∧ (retx 8).calm = true ∧ (retx 8).settings.retxLimit = 8 ∧ (ctl .opening 1).calm = true
      ∧ (ctl .opening 0).calm = true ∧ (ctl .resuming 2).calm = true ∧ (ctl .closing 0).calm = true ∧ ack.calm = true
      ∧ ack.ackFlag 1#4 = none
      ∧ (after (.ackTimerExpiry 1#4) ack).ackFlag 1#4 = some { isNak := false, seq := 2#16, epoch := 7#8 }
      ∧ ((after (.retransmitTimerExpiry 0#4) (retx 8)).source? 0).any (fun c => c.state == .fault) = true := by decide

/-- Witnesses for the expiries of LinkTimersAndTick. -/
theorem test_linkTimers_witness :
    (State.calm { training with link := { training.link with helloTimer := some 0 } }) = true
      ∧ (State.calm { up with link := { up.link with keepaliveTimer := some 0 } }) = true
      ∧ (State.calm { up with link := { up.link with silenceTimer := some 0 } }) = true
      ∧ (after .silenceTimerExpiry { up with link := { up.link with silenceTimer := some 0 } }).link.state = .training := by
  decide

/-- Witness for the tick of LinkTimersAndTick. -/
theorem test_tick_witness :
    both.calm = true ∧ both.expiryDue = false ∧ (after .tick both).link.silenceTimer = some 499 := by decide +kernel

/-! ### Transmission -/

/-- Witnesses for TransmitLinkControlAndAck: a HELLO, a KEEPALIVE, a control frame, and the end of a transmission. -/
theorem test_transmit_witness :
    let hello := { training with link := { training.link with helloDue := true } }
    let alive := { up with link := { up.link with keepaliveDue := true } }
    let control := setCtlSlot 15#4 (some { epoch := 1#8, body := .closeAck }) up
    let busy := { up with sched := { up.sched with tx := some .keepalive } }
    hello.still = true ∧ alive.still = true ∧ control.still = true ∧ busy.calm = true
      ∧ (after .transmissionBegin hello).sched.tx = some (.hello 1#8 false)
      ∧ (after .transmissionBegin control).sched.tx = some (.stream 15#4 1#8 .closeAck)
      ∧ (after .transmissionEnd busy).sched.sent = some (.keepalive, true) := by decide

/-- Witness for TransmitLinkControlAndAck: an acknowledgement. -/
theorem test_transmitAck_witness :
    let s := setAckFlag 1#4 (some { isNak := true, seq := 3#16, epoch := 7#8 }) both
    s.still = true ∧ s.sched.tx = none ∧ s.ackFlag 1#4 = some { isNak := true, seq := 3#16, epoch := 7#8 }
      ∧ s.ackFlag 0#4 = none
      ∧ (State.still (setAckFlag 9#4 (some { isNak := false, seq := 0#16, epoch := 0#8 }) both)) = true
      ∧ ((after .transmissionBegin s).sink? 1).any (fun c => c.naksSent == 1#32) = true := by
  decide

/-- Witness for TransmitRecord. -/
theorem test_transmitRecord_witness :
    let s := withSource tailSource up
    s.still = true ∧ s.sched.tx = none ∧ (s.source? 0).any (fun c => c.txPtr != c.nextSeq) = true
      ∧ tailSource.queue[(tailSource.txPtr - tailSource.oldest).toNat]?.map (·.status) = some .ready
      ∧ ((after .transmissionBegin s).source? 0).any (fun c =>
          c.queue.all (fun r => r.status == .inFlight && r.sentBefore) && c.txPtr == 1#16) = true := by decide

/-! ### The management port -/

/-- Witnesses for ReadItems: a mapped item, an unmapped one, and status items of no stream, a source and a sink. -/
theorem test_readItems_witness :
    (withSource { liveSource with fence := some 9#8, lastFence := some (.completed, 7#8) } up).quiet = true
      ∧ (up.setEntry 0 { resetEntry 0#4 with
          role := .source (newSource 5#8), promotion := some { epoch := 5#8, lastApplied := 2#16, discarded := 4 } }).quiet
        = true
      ∧ both.quiet = true ∧ itemOf 0x0020#16 = none ∧ both.lookup 9#4 = none ∧ both.lookup 0#4 = some 0
      ∧ both.lookup 1#4 = some 1 ∧ both.readStream 0#4 0 = 0x00050141#32 ∧ both.readStream 1#4 0 = 0x10070042#32
      ∧ (after (.readItem 0#16 12) both).port.sdo
        = [0#8, 0#8, 0#8, 0#8, 0x41#8, 0x20#8, 0x01#8, 0x01#8, 0x80#8, 0x80#8, 0x80#8, 0x80#8] := by decide +kernel

/-- Witnesses for SettingWrites at the ends of a range and at the cross-check. -/
theorem test_settingWrites_witness :
    both.quiet = true ∧ settingList[0]? = some .tickDivisor ∧ both.settings.accepts .tickDivisor 0 = false
      ∧ both.settings.accepts .tickDivisor 1 = true ∧ both.settings.accepts .tickDivisor 1023 = true
      ∧ both.settings.accepts .tickDivisor 1024 = false ∧ both.settings.accepts .silenceLimit 100 = false
      ∧ both.settings.accepts .silenceLimit 101 = true ∧ both.settings.accepts .keepaliveInterval 499 = true
      ∧ both.settings.accepts .keepaliveInterval 500 = false ∧ both.settings.get .tickDivisor = 25
      ∧ itemOf 0x001C#16 = none := by decide

/-- Witnesses for SettingsThatActAtOnce. -/
theorem test_settingsAct_witness :
    let counted := withSink { liveSink with ackCount := 8, ackTimer := some 3 } up
    State.reset.quiet = true ∧ State.reset.settings.linkEnable = false ∧ training.quiet = true ∧ both.quiet = true
      ∧ counted.quiet = true ∧ counted.windowsValid = true
      ∧ (after (.ackEveryWrite 7#32 7) counted).ackFlag 1#4 = some { isNak := false, seq := 2#16, epoch := 7#8 }
      ∧ (full .hold .live 128).quiet = true ∧ (full .hold .live 128).freeCount < 255
      ∧ (after (.journalLowWrite 255#32 7) (full .hold .live 128)).caused .journalLow = true
      ∧ (after (.linkEnableWrite 1#32 7) State.reset).caused .linkDown = true := by decide

/-- Witnesses for WindowEntryWrite: busy, out of range, in conflict, and accepted. -/
theorem test_windowEntryWrite_witness :
    both.quiet = true ∧ liveSource.state ≠ .closed ∧ both.source? 2 = none ∧ both.sink? 2 = none
      ∧ (both.entry 2).inRange .base 0x20#32 = false ∧ (both.entry 2).inRange .base 0xFFFFFFC0#32 = true
      ∧ (both.entry 2).inRange .length 0x01000000#32 = true ∧ (both.entry 2).inRange .length 0x01000040#32 = false
      ∧ (both.entry 2).inRange .options 0x05010001#32 = true ∧ (both.entry 2).inRange .options 0x00000300#32 = false
      ∧ (both.entry 2).inRange .mode 0x0001#32 = true
      ∧ both.conflicts 2 .mode ((both.entry 2).written .mode 0x0001#32) = true
      ∧ both.conflicts 2 .base ((both.entry 2).written .base 0x2000#32) = false
      ∧ (after (.windowEntryWrite 2 .base 0x2000#32 7) both).port.result = some .done
      ∧ (after (.windowEntryWrite 2 .mode 0x0001#32 7) both).port.result = some .refusedConflict := by decide

/-- Witnesses for MasksAndAcknowledges. -/
theorem test_masks_witness :
    let s := { up with ev := { up.ev with pending := Cause.linkUp.bit } }
    s.quiet = true ∧ attnLow (after (.eventMaskWrite 1#32 7) s) = true
      ∧ (after (.ackEvents 0xE001#16 3) s).ev.pending = 0#13 := by decide

/-- Witnesses for SourceOperations: CLOSED with the link UP and not, and the open states. -/
theorem test_sourceOperations_witness :
    (withSource (newSource 5#8) up).quiet = true ∧ (withSource (newSource 5#8) State.reset).quiet = true
      ∧ both.quiet = true ∧ both.lookup 0#4 = some 0
      ∧ (withSource { liveSource with state := .suspended } State.reset).quiet = true
      ∧ (withSource { liveSource with fence := some 9#8 } up).quiet = true
      ∧ ((after (.openOperation 0#8 0#8 4) (withSource (newSource 5#8) up)).source? 0).any (fun c =>
          c.state == .opening && c.epoch == 6#8) = true
      ∧ ((after (.closeOperation 0#8 0#8 4) both).source? 0).any (fun c => c.state == .closing) = true
      ∧ ((after (.reseedOperation 0#8 0#8 4) both).source? 0).any (fun c => c.reseeds == 1#32) = true := by decide

/-- Witnesses for FenceOperation: by state, by a fence outstanding, by the reservation test, and accepted. -/
theorem test_fence_witness :
    (withSource (newSource 5#8) up).quiet = true ∧ (withSource { liveSource with fence := some 9#8 } up).quiet = true
      ∧ (full .hold .live 128).quiet = true ∧ (full .hold .live 128).reserveOk 0 1 = false
      ∧ ((full .hold .live 128).source? 0).any (fun c => c.state.journals && c.fence.isNone) = true
      ∧ both.reserveOk 0 1 = true
      ∧ ((after (.fenceOperation 0#8 9#8 4) both).source? 0).any (fun c =>
          c.fence == some 9#8 && c.queue.map (·.kind) == [.mark]) = true := by decide

/-- Witnesses for SinkOperations: CLOSED, LIVE, and an apply under operation. -/
theorem test_sinkOperations_witness :
    (withSink newSink up).quiet = true ∧ both.quiet = true ∧ both.lookup 1#4 = some 1 ∧ both.sink? 1 = some liveSink
      ∧ (serving .writing true .live).quiet = true
      ∧ (withSink { liveSink with state := .suspended, prior := .seeding } State.reset).quiet = true
      ∧ (withSink { liveSink with state := .suspended, prior := .live } State.reset).quiet = true
      ∧ (after (.promoteOperation 1#8 0#8 4) (serving .writing true .live)).port.result = some .refusedBusy
      ∧ (after (.promoteOperation 1#8 0#8 4) both).ctlSlot 1#4
        = some { epoch := 7#8, body := .promoted 2#16 0#8 } := by decide

/-- Witnesses for DiscardAtEngineAndAccessUnit: a reservation, a held write of the stream and of another, a granted write,
and the engine waiting, asking, reading, reading for a suspended stream, and serving another stream. -/
theorem test_discard_witness :
    let busy (s : State) : State := { s with arb := (reading false false 64).arb }
    let asks := busy (requesting (word 0#32 (.write 0#512)) (some { win := 0, slots := 1 }) both)
    let held (w : WinIdx) : State := { full .hold .live 128 with
      acc := { phase := .waitSlots (word 0#32 (.write 0#512)) w, resv := none, holdTimer := some 5 }
      ev := { up.ev with cond := Cause.holding.bit } }
    let journaled := granted (some { win := 0, epoch := 5#8 })
    let other : State := { offered false false with
      seed := { (offered false false).seed with active := some 2, queue := [0] } }
    let left : State := { reading true false 128 with seed := { (reading true false 128).seed with active := none } }
    asks.quiet = true ∧ (held 0).quiet = true ∧ (held 1).quiet = true ∧ journaled.quiet = true
      ∧ (offered false false).quiet = true ∧ (busy (seedAsks 5 64)).quiet = true ∧ (reading true false 128).quiet = true
      ∧ left.quiet = true ∧ other.quiet = true ∧ asks.lookup 0#4 = some 0
      ∧ (after (.closeOperation 0#8 0#8 4) asks).acc.resv = none
      ∧ (after (.reseedOperation 0#8 0#8 4) (held 0)).isHeld = false
      ∧ (after (.reseedOperation 0#8 0#8 4) (held 1)).heldOfferDue = true
      ∧ (after (.closeFrameAtSource 0#4 5#8 .fromLocal) (reading true false 128)).seed.resv = none
      ∧ (after (.closeOperation 0#8 0#8 4) other).seed.queue = [] := by decide

/-- Witnesses for LinkRestartAndDeviceReset. -/
theorem test_restart_witness :
    State.reset.quiet = true ∧ State.reset.link.state = .down ∧ training.quiet = true ∧ both.quiet = true
      ∧ training.settings.linkEnable = true ∧ training.link.laneReady = true
      ∧ (after (.linkRestart 1) both).link.state = .training ∧ (after (.deviceReset 1) both).port.resetDue = true := by
  decide

/-- Witnesses for SoftReset, with each phase of the access unit and of the engines that it treats. -/
theorem test_softReset_witness :
    let due (s : State) : State := { s with port := { s.port with resetDue := true } }
    let held := { full .hold .live 128 with
      acc := { phase := .waitSlots (word 0#32 (.write 0#512)) 0, resv := none, holdTimer := some 5 }
      ev := { up.ev with cond := Cause.holding.bit } }
    both.quiet = true ∧ (due both).calm = true ∧ (due held).calm = true ∧ (due (granted none)).calm = true
      ∧ (due (reading false false 64)).calm = true ∧ (due (serving .writing true .live)).calm = true
      ∧ (State.calm (due { requesting (word 0#32 .read) none both with arb := (reading false false 64).arb })) = true
      ∧ (due both).bus.presented = none
      ∧ (after .softReset (due held)).bus.responses = [{ ok := false, data := [] }]
      ∧ (after .softReset (due (waiting held))).bus = { presented := none, responses := [{ ok := false, data := [] }] }
      ∧ (due (waiting held)).calm = true
      ∧ (after .softReset (due both)).source? 0 = some { newSource 5#8 with diverged := true } := by decide

/-- What the model makes of an access that waits presented at the soft reset of a held write: taken in that event, a
write to a SINK window is refused, and WRITE_REFUSED stays pending (notes/assumptions/27.md). -/
theorem test_softReset_takes_waiting_write :
    let s := { full .hold .live 128 with
      windows := ((full .hold .live 128).setEntry 1 (both.entry 1)).windows
      acc := { phase := .waitSlots (word 0#32 (.write 0#512)) 0, resv := none, holdTimer := some 5 }
      bus := { presented := some (word 0x1000#32 (.write 0#512)), responses := [] }
      ev := { up.ev with cond := Cause.holding.bit }, port := { up.port with resetDue := true } }
    s.calm = true ∧ (after .softReset s).caused .writeRefused = true ∧ (after .softReset s).bus.responses.length = 2 := by
  decide

/-- Witnesses for NothingExecuted. -/
theorem test_nothingExecuted_witness :
    both.quiet = true ∧ isCommand 0x36#8 = false ∧ (16#8 : Byte).toNat > 15 ∧ both.lookup 9#4 = none
      ∧ (both.source? 0).isSome = true ∧ (both.sink? 1).isSome = true
      ∧ (after (.badCommand 0x36#8 [1#8]) both).port.sdo = [0#8, 0x88#8]
      ∧ (after (.openOperation 16#8 0#8 4) both).port.result = some .refusedRange
      ∧ (after (.promoteOperation 0#8 0#8 4) both).port.result = some .refusedState := by decide

/-! ### Headline statements -/

/-- Witnesses for FrameBytesReadBack: a PROMOTED of the greatest count, a RECORD of one byte and of sixteen. -/
theorem test_frameBytes_witness :
    (Frame.stream 15#4 255#8 (.promoted 0xFFFF#16 4#8)).formatOk = true
      ∧ (Frame.stream 0#4 0#8 (.record { write4 0#16 .first 0#32 with data := [0#8] })).formatOk = true
      ∧ receiveCheck (Frame.stream 1#4 7#8 (.record (write4 3#16 .last 0x7C#32))).toBytes
        = .valid (.stream 1#4 7#8 (.record (write4 3#16 .last 0x7C#32))) := by decide +kernel

/-- Witnesses for the invariants, at states with records, reservations and a read in flight. -/
theorem test_invariants_witness :
    both.settings.valid = true ∧ both.arb.ranks = true ∧ both.windowsValid = true ∧ both.linkValid = true
      ∧ training.linkValid = true ∧ (reading true false 128).journalValid = true
      ∧ (reading true false 128).windowsValid = true ∧ (full .hold .live 128).journalValid = true
      ∧ (requesting (word 0#32 (.write 0#512)) (some { win := 0, slots := 1 }) both).journalValid = true := by decide

end Sys2Proof.Tests
end

section
/-! SUPPORT. The journal of a part without source contexts and reservations: nothing is counted, every slot is free, and
JOURNAL_LOW is false (R39, R40, R45, R59). The pin reset state is such a part (R60). -/

namespace Sys2Proof.Machine

/-! ### The counts where nothing is held -/

/-- A window that is OFF owns no source context (R29). -/
theorem source?_of_off {s : State} {i : WinIdx} (h : (s.entry i).role = .off) : s.source? i = none := by
  simp [State.source?, h]

/-- No source context, no queue, no records (R40). -/
theorem recordCount_of_source?_none {s : State} {i : WinIdx} (h : s.source? i = none) : s.recordCount i = 0 := by
  simp [State.recordCount, h]

@[simp] theorem slotsAgainst_none (i : WinIdx) : slotsAgainst none i = 0 := rfl

@[simp] theorem slotsOf_none : slotsOf none = 0 := rfl

theorem reservedCount_of_no_resv {s : State} (ha : s.acc.resv = none) (hs : s.seed.resv = none) (i : WinIdx) :
    s.reservedCount i = 0 := by
  simp [State.reservedCount, ha, hs]

theorem usedSlots_eq_zero {s : State} (hr : ∀ i, s.recordCount i = 0) (ha : s.acc.resv = none)
    (hs : s.seed.resv = none) : s.usedSlots = 0 := by
  simp [State.usedSlots, allWindows, hr, ha, hs]

/-- With no record and no reservation every slot is free (R39). -/
theorem freeCount_of_empty {s : State} (hr : ∀ i, s.recordCount i = 0) (ha : s.acc.resv = none)
    (hs : s.seed.resv = none) : s.freeCount = Config.journalSlots := by
  simp [State.freeCount, usedSlots_eq_zero hr ha hs]

/-! ### JOURNAL_LOW among the conditions -/

/-- Among the conditions JOURNAL_LOW is false exactly while the free count is not below the setting, whatever LINK_DOWN
and HOLDING are (R59). -/
theorem conditions_journalLow_eq_zero_iff {s : State} :
    s.conditions &&& Cause.journalLow.bit = 0#13 ↔ s.settings.journalLow ≤ s.freeCount := by
  unfold State.conditions
  by_cases low : s.freeCount < s.settings.journalLow
  · rw [if_pos low]
    refine iff_of_false ?_ (Nat.not_le.mpr low)
    split <;> split <;> decide
  · rw [if_neg low]
    refine iff_of_true ?_ (Nat.not_lt.mp low)
    split <;> split <;> decide

/-! ### The pin reset state -/

/-- Entry `i` of the window table at pin reset (R37). -/
theorem reset_entry (i : WinIdx) : State.reset.entry i = resetEntry (BitVec.ofNat 4 i.val) := by
  revert i; decide

theorem reset_source? (i : WinIdx) : State.reset.source? i = none :=
  source?_of_off (by rw [reset_entry]; rfl)

theorem reset_recordCount (i : WinIdx) : State.reset.recordCount i = 0 :=
  recordCount_of_source?_none (reset_source? i)

theorem reset_reservedCount (i : WinIdx) : State.reset.reservedCount i = 0 :=
  reservedCount_of_no_resv rfl rfl i

theorem reset_freeCount : State.reset.freeCount = 256 :=
  freeCount_of_empty reset_recordCount rfl rfl

/-- All 256 slots are free and the setting is 32, so JOURNAL_LOW is false (R59, R60). -/
theorem reset_conditions_journalLow : State.reset.conditions &&& Cause.journalLow.bit = 0#13 := by
  have setting : State.reset.settings.journalLow = 32 := rfl
  rw [conditions_journalLow_eq_zero_iff, setting, reset_freeCount]
  decide

/-- Settles O5: every window is OFF and neither holder has a reservation, so the counts are those of an empty journal; the
rest are the fields of the reset state. -/
theorem resetJournal : Obligations.ResetJournal := by
  unfold Obligations.ResetJournal
  refine ⟨reset_freeCount, ?accResv, ?seedResv, ?counts, ?held, ?waits, ?setting, reset_conditions_journalLow, ?seen⟩
  case counts => exact fun i => ⟨reset_recordCount i, reset_reservedCount i, reset_source? i⟩
  case seen => decide
  all_goals rfl

end Sys2Proof.Machine
end

section
/-! SUPPORT. The event unit's latches seen through a mask: what a raising, an acknowledge and a judgement leave on the bits
of a mask whose condition begins, ends, lasts or stays away (R155, R156, R158). -/

namespace Sys2Proof.Machine

/-! ### Words compared on the bits of a mask -/

section Masks

variable {w : Nat} {x y b : BitVec w}

/-- Two words agree under a mask exactly when they agree on each of its bits. -/
theorem and_mask_eq_and_mask_iff : x &&& b = y &&& b ↔ ∀ k (hk : k < w), b[k] = true → x[k] = y[k] := by
  simp only [BitVec.eq_of_getElem_eq_iff, BitVec.getElem_and]
  refine forall₂_congr fun k hk => ?_
  cases b[k] <;> simp

theorem and_mask_eq_mask_iff : x &&& b = b ↔ ∀ k (hk : k < w), b[k] = true → x[k] = true := by
  simpa using and_mask_eq_and_mask_iff (x := x) (y := BitVec.allOnes w) (b := b)

theorem and_mask_eq_zero_iff : x &&& b = 0#w ↔ ∀ k (hk : k < w), b[k] = true → x[k] = false := by
  simpa using and_mask_eq_and_mask_iff (x := x) (y := 0#w) (b := b)

/-- A mask whose bits are all clear in a word loses none to it. -/
theorem mask_and_not_of_clear (h : x &&& b = 0#w) : b &&& ~~~ x = b := by
  rw [BitVec.and_comm, and_mask_eq_mask_iff]
  intro k hk hb
  simp [and_mask_eq_zero_iff.mp h k hk hb]

/-- A mask whose bits are all set in a word loses all of them to it. -/
theorem mask_and_not_of_set (h : x &&& b = b) : b &&& ~~~ x = 0#w := by
  rw [BitVec.and_comm, and_mask_eq_zero_iff]
  intro k hk hb
  simp [and_mask_eq_mask_iff.mp h k hk hb]

/-- Setting bits that are all set already changes nothing. -/
theorem or_mask_of_set (h : x &&& b = b) : x ||| b = x := by
  ext k hk
  have set : b[k] = true → x[k] = true := and_mask_eq_mask_iff.mp h k hk
  cases hb : b[k] <;> simp_all

/-- Clearing some bits of a mask that are all clear already changes nothing. -/
theorem and_not_mask_of_clear (h : x &&& b = 0#w) : x &&& ~~~ (b &&& y) = x := by
  ext k hk
  have clear : b[k] = true → x[k] = false := and_mask_eq_zero_iff.mp h k hk
  cases hb : b[k] <;> simp_all

end Masks

variable {e : EventUnit} {b now : BitVec 13}

/-! ### Raising and acknowledging -/

/-- A raising that finds the latch set leaves it set, and the number of raisings is not kept (R155). -/
theorem raise_of_pending {c : Cause} (h : e.pending &&& c.bit = c.bit) : e.raise c = e := by
  simp [EventUnit.raise, or_mask_of_set h]

/-- The latches after an acknowledge: cleared where no condition is true (R155, R156). -/
theorem acknowledge_pending (e : EventUnit) (b : BitVec 13) :
    (e.acknowledge b).pending = e.pending &&& ~~~ (b &&& ~~~ e.cond) := rfl

/-- The acknowledge memories after an acknowledge: set where latch and condition are (R156). -/
theorem acknowledge_ackMem (e : EventUnit) (b : BitVec 13) :
    (e.acknowledge b).ackMem = e.ackMem ||| (b &&& e.pending &&& e.cond) := rfl

/-- An acknowledge of clear latches changes nothing and is not remembered (R155, R156). -/
theorem acknowledge_of_clear (h : e.pending &&& b = 0#13) : e.acknowledge b = e := by
  have latches : e.pending &&& ~~~ (b &&& ~~~ e.cond) = e.pending := and_not_mask_of_clear h
  have memories : b &&& e.pending &&& e.cond = 0#13 := by rw [BitVec.and_comm b, h, BitVec.zero_and]
  rw [EventUnit.acknowledge, latches, memories, BitVec.or_zero]

/-- Where no condition is true an acknowledge clears the latches (R155, R156). -/
theorem acknowledge_pending_of_false (h : e.cond &&& b = 0#13) :
    (e.acknowledge b).pending = e.pending &&& ~~~ b := by
  rw [acknowledge_pending, mask_and_not_of_clear h]

/-- Where no condition is true an acknowledge is not remembered (R155, R156). -/
theorem acknowledge_ackMem_of_false (h : e.cond &&& b = 0#13) : (e.acknowledge b).ackMem = e.ackMem := by
  rw [acknowledge_ackMem, BitVec.and_comm, ← BitVec.and_assoc, h, BitVec.zero_and, BitVec.or_zero]

/-- Where the conditions are true the latches stay set at an acknowledge (R156). -/
theorem acknowledge_pending_of_true (h : e.cond &&& b = b) : (e.acknowledge b).pending = e.pending := by
  rw [acknowledge_pending, mask_and_not_of_set h, BitVec.not_zero, BitVec.and_allOnes]

/-- Where the conditions are true and the latches set an acknowledge is remembered (R156). -/
theorem acknowledge_ackMem_of_true (hp : e.pending &&& b = b) (hc : e.cond &&& b = b) :
    (e.acknowledge b).ackMem = e.ackMem ||| b := by
  rw [acknowledge_ackMem, BitVec.and_comm b, hp, BitVec.and_comm b, hc]

/-! ### Judging: the conditions of a mask begin, end or stand -/

/-- Conditions that become true set their latches, whatever these held (R156). -/
theorem judge_pending_of_begins (hc : e.cond &&& b = 0#13) (hn : now &&& b = b) :
    (e.judge now).pending &&& b = b := by
  rw [and_mask_eq_mask_iff] at hn ⊢
  rw [and_mask_eq_zero_iff] at hc
  intro k hk hb
  simp [EventUnit.judge, hc k hk hb, hn k hk hb]

/-- Of conditions that become true the acknowledge memory stays where the latch was set and is cleared elsewhere (R156). -/
theorem judge_ackMem_of_begins (hc : e.cond &&& b = 0#13) (hn : now &&& b = b) :
    (e.judge now).ackMem &&& b = e.ackMem &&& e.pending &&& b := by
  rw [and_mask_eq_mask_iff] at hn
  rw [and_mask_eq_zero_iff] at hc
  rw [and_mask_eq_and_mask_iff]
  intro k hk hb
  simp [EventUnit.judge, hc k hk hb, hn k hk hb]

/-- Of conditions that end the latch is cleared where the acknowledge memory is set and stays elsewhere (R156). -/
theorem judge_pending_of_ends (hc : e.cond &&& b = b) (hn : now &&& b = 0#13) :
    (e.judge now).pending &&& b = e.pending &&& ~~~ e.ackMem &&& b := by
  rw [and_mask_eq_mask_iff] at hc
  rw [and_mask_eq_zero_iff] at hn
  rw [and_mask_eq_and_mask_iff]
  intro k hk hb
  simp [EventUnit.judge, hc k hk hb, hn k hk hb]

/-- Conditions that end leave no acknowledge remembered (R156). -/
theorem judge_ackMem_of_ends (hc : e.cond &&& b = b) (hn : now &&& b = 0#13) :
    (e.judge now).ackMem &&& b = 0#13 := by
  rw [and_mask_eq_mask_iff] at hc
  rw [and_mask_eq_zero_iff] at hn ⊢
  intro k hk hb
  simp [EventUnit.judge, hc k hk hb, hn k hk hb]

/-- Conditions that neither begin nor end leave their latches (R157). -/
theorem judge_pending_of_stands (h : e.cond &&& b = now &&& b) :
    (e.judge now).pending &&& b = e.pending &&& b := by
  rw [and_mask_eq_and_mask_iff] at h ⊢
  intro k hk hb
  simp [EventUnit.judge, h k hk hb]

/-- Conditions that neither begin nor end leave their acknowledge memories (R157). -/
theorem judge_ackMem_of_stands (h : e.cond &&& b = now &&& b) :
    (e.judge now).ackMem &&& b = e.ackMem &&& b := by
  rw [and_mask_eq_and_mask_iff] at h ⊢
  intro k hk hb
  simp [EventUnit.judge, h k hk hb]

/-! ### The two classes of causes -/

/-- Settles O7: a pulse cause has no condition, so an acknowledge always finds it false. -/
theorem pulseLatch : Obligations.PulseLatch := by
  unfold Obligations.PulseLatch
  intro e c noCondition
  refine ⟨?raised, ?raisedAgain, ?acknowledged, ?notRemembered, ?raisedAfter⟩
  case raised => rfl
  case raisedAgain => exact raise_of_pending
  case acknowledged => exact acknowledge_pending_of_false noCondition
  case notRemembered => exact acknowledge_of_clear
  case raisedAfter => exact raise_pending (e.acknowledge c.bit) c

/-- Settles O8: each order is one judgement of a condition that begins, ends or stands, or one acknowledge in one value of
the latch and the condition. -/
theorem conditionLatch : Obligations.ConditionLatch := by
  unfold Obligations.ConditionLatch
  intro e c now
  refine ⟨?beginsClear, ?beginsSet, ?ackClear, ?ackEnded, ?ackLasting, ?endsAcknowledged, ?endsUnacknowledged, ?stands⟩
  case beginsClear =>
    intro before after clear
    refine ⟨judge_pending_of_begins before after, ?_⟩
    rw [judge_ackMem_of_begins before after, BitVec.and_assoc, clear, BitVec.and_zero]
  case beginsSet =>
    intro before after set
    refine ⟨judge_pending_of_begins before after, ?_⟩
    rw [judge_ackMem_of_begins before after, BitVec.and_assoc, set]
  case ackClear => exact acknowledge_of_clear
  case ackEnded => exact fun _ ended => ⟨acknowledge_pending_of_false ended, acknowledge_ackMem_of_false ended⟩
  case ackLasting => exact fun set lasts => ⟨acknowledge_pending_of_true lasts, acknowledge_ackMem_of_true set lasts⟩
  case endsAcknowledged =>
    intro before after remembered
    refine ⟨?_, judge_ackMem_of_ends before after⟩
    rw [judge_pending_of_ends before after, BitVec.and_assoc, BitVec.and_comm _ c.bit, mask_and_not_of_set remembered,
      BitVec.and_zero]
  case endsUnacknowledged =>
    intro before after unremembered
    refine ⟨?_, judge_ackMem_of_ends before after⟩
    rw [judge_pending_of_ends before after, BitVec.and_assoc, BitVec.and_comm _ c.bit,
      mask_and_not_of_clear unremembered]
  case stands => exact fun same => ⟨judge_pending_of_stands same, judge_ackMem_of_stands same⟩

end Sys2Proof.Machine
end

section
/-! SUPPORT. What a command can be: an internal step, an outside event, a management transaction, a soft reset or an edge of
RESET_N. A property of every step is proved once for each of these (`exec_cases`). -/

namespace Sys2Proof.Machine

/-! ### The kinds of command -/

/-- What an outside event that is no tick and no soft reset does at the part. -/
inductive Happening : (State → State) → Prop where
  | present (a : Access) : Happening (present a)
  | accessAnswer (ans : Answer) (data : BitVec 512) : Happening (handAnswer ans fun ok => answerAccess ok data)
  | seedAnswer (ans : Answer) (data : BitVec 512) : Happening (handAnswer ans fun ok => answerSeed ok data)
  | applyAnswer (ans : Answer) : Happening (handAnswer ans answerApply)
  | hold : Happening expireHold
  | laneRise : Happening laneRise
  | laneFall : Happening laneFall
  | bytes (bs : List Byte) : Happening (whenReceiving (deliverBytes bs))
  | frame (f : Frame) : Happening (whenReceiving (deliver f))
  | hello : Happening expireHello
  | silence : Happening expireSilence
  | keepalive : Happening expireKeepalive
  | retx (id : StreamId) : Happening (atStream id expireRetx)
  | control (id : StreamId) : Happening (atStream id expireControl)
  | ack (id : StreamId) : Happening (atStream id expireAck)
  | endFrame : Happening endFrame

/-- What a management transaction does at the part. -/
inductive Transaction : (State → State) → Prop where
  | read (item : BitVec 16) (n : Nat) : Transaction (readTransaction item n)
  | write (item : BitVec 16) (v : Word) (n : Nat) : Transaction (writeTransaction item v n)
  | stream (id op argument : Byte) (n : Nat) : Transaction (streamTransaction id op argument n)
  | ack (causes : BitVec 16) (n : Nat) : Transaction (ackTransaction causes n)
  | restart (n : Nat) : Transaction (restartTransaction n)
  | reset (n : Nat) : Transaction (resetTransaction n)
  | bad (n : Nat) : Transaction (transact 0 1 n (plain fun s => (s, .badCommand)))

/-- The steps of the part's own that a command can ask for. -/
inductive OwnStep : (State → State) → Prop where
  | offerHeld : OwnStep stepOfferHeld
  | offerSeed : OwnStep stepOfferSeed
  | grant (r : Requester) : OwnStep (stepGrant r)
  | transmit : OwnStep stepTransmit

/-- A tick, as `exec` runs it (R172, R178). -/
def tickEvent (s : State) : State :=
  if s.resetLow then s else outside (fun s => tickTimers (takeAllDue s)) s

/-- The release of RESET_N, as `exec` runs it (R178). -/
def releaseEvent (s : State) : State :=
  if s.resetLow then finish (pinReset false s) else s

/-- The commands that leave the configuration alone, by kind. -/
inductive Runs (c : Instr) (s t : State) : Prop where
  | own (f : State → State) (h : OwnStep f) (ht : t = f s)
  | happening (f : State → State) (h : Happening f) (ht : t = outside f s)
  | tick (hc : c = .tick) (ht : t = tickEvent s)

/-- The commands that management or RESET_N gives, by kind. -/
inductive Configures (s t : State) : Prop where
  | transaction (f : State → State) (h : Transaction f) (ht : t = manage f s)
  | softReset (ht : t = outside rise s)
  | assert (ht : t = pinReset true (settle s))
  | release (ht : t = releaseEvent s)

/-- A transaction given as its bytes is one of the transactions (R167). -/
theorem byteTransaction_transaction (command : Byte) (later : List Byte) :
    Transaction (byteTransaction command later) := by
  unfold byteTransaction
  dsimp only
  split
  · exact .read _ _
  · exact .write _ _ _
  · exact .stream _ _ _ _
  · exact .ack _ _
  · exact .restart _
  · exact .reset _
  · exact .bad _

/-- Every command leaves a next state, that of its kind. -/
theorem exec_cases (c : Instr) (s : State) : ∃ t, exec c s = .next t ∧
    (configures c = false ∧ Runs c s t ∨ configures c = true ∧ Configures s t) := by
  cases c with
  | accessPresented a => exact ⟨_, rfl, .inl ⟨rfl, .happening _ (.present a) rfl⟩⟩
  | accessGrant => exact ⟨_, rfl, .inl ⟨rfl, .own _ (.grant .access) rfl⟩⟩
  | accessAnswer ans d => exact ⟨_, rfl, .inl ⟨rfl, .happening _ (.accessAnswer ans d) rfl⟩⟩
  | seedGrant => exact ⟨_, rfl, .inl ⟨rfl, .own _ (.grant .seed) rfl⟩⟩
  | seedReadAnswer ans d => exact ⟨_, rfl, .inl ⟨rfl, .happening _ (.seedAnswer ans d) rfl⟩⟩
  | applyGrant => exact ⟨_, rfl, .inl ⟨rfl, .own _ (.grant .apply) rfl⟩⟩
  | applyAnswer ans => exact ⟨_, rfl, .inl ⟨rfl, .happening _ (.applyAnswer ans) rfl⟩⟩
  | slotOfferHeldWrite => exact ⟨_, rfl, .inl ⟨rfl, .own _ .offerHeld rfl⟩⟩
  | slotOfferSeed => exact ⟨_, rfl, .inl ⟨rfl, .own _ .offerSeed rfl⟩⟩
  | holdTimerExpiry => exact ⟨_, rfl, .inl ⟨rfl, .happening _ .hold rfl⟩⟩
  | pinResetAssert => exact ⟨_, rfl, .inr ⟨rfl, .assert rfl⟩⟩
  | pinResetRelease => exact ⟨_, rfl, .inr ⟨rfl, .release rfl⟩⟩
  | tick => exact ⟨_, rfl, .inl ⟨rfl, .tick rfl rfl⟩⟩
  | laneReadyRise => exact ⟨_, rfl, .inl ⟨rfl, .happening _ .laneRise rfl⟩⟩
  | laneReadyFall => exact ⟨_, rfl, .inl ⟨rfl, .happening _ .laneFall rfl⟩⟩
  | frameError bs => exact ⟨_, rfl, .inl ⟨rfl, .happening _ (.bytes bs) rfl⟩⟩
  | helloTimerExpiry => exact ⟨_, rfl, .inl ⟨rfl, .happening _ .hello rfl⟩⟩
  | silenceTimerExpiry => exact ⟨_, rfl, .inl ⟨rfl, .happening _ .silence rfl⟩⟩
  | keepaliveTimerExpiry => exact ⟨_, rfl, .inl ⟨rfl, .happening _ .keepalive rfl⟩⟩
  | retransmitTimerExpiry id => exact ⟨_, rfl, .inl ⟨rfl, .happening _ (.retx id) rfl⟩⟩
  | controlTimerExpiry id => exact ⟨_, rfl, .inl ⟨rfl, .happening _ (.control id) rfl⟩⟩
  | ackTimerExpiry id => exact ⟨_, rfl, .inl ⟨rfl, .happening _ (.ack id) rfl⟩⟩
  | transmissionBegin => exact ⟨_, rfl, .inl ⟨rfl, .own _ .transmit rfl⟩⟩
  | transmissionEnd => exact ⟨_, rfl, .inl ⟨rfl, .happening _ .endFrame rfl⟩⟩
  | readItem item n => exact ⟨_, rfl, .inr ⟨rfl, .transaction _ (.read item n) rfl⟩⟩
  | streamStatusRead id n => exact ⟨_, rfl, .inr ⟨rfl, .transaction _ (.read _ n) rfl⟩⟩
  | ackEvents causes n => exact ⟨_, rfl, .inr ⟨rfl, .transaction _ (.ack causes n) rfl⟩⟩
  | linkRestart n => exact ⟨_, rfl, .inr ⟨rfl, .transaction _ (.restart n) rfl⟩⟩
  | deviceReset n => exact ⟨_, rfl, .inr ⟨rfl, .transaction _ (.reset n) rfl⟩⟩
  | softReset => exact ⟨_, rfl, .inr ⟨rfl, .softReset rfl⟩⟩
  | badCommand b later => exact ⟨_, rfl, .inr ⟨rfl, .transaction _ (byteTransaction_transaction b later) rfl⟩⟩
  | writeItem | windowEntryWrite | eventMaskWrite | linkEnableWrite | journalLowWrite | ackEveryWrite
  | tickDivisorWrite =>
      exact ⟨_, rfl, .inr ⟨rfl, .transaction _ (.write _ _ _) rfl⟩⟩
  | openOperation | closeOperation | sinkCloseOperation | reseedOperation | fenceOperation | promoteOperation =>
      exact ⟨_, rfl, .inr ⟨rfl, .transaction _ (.stream _ _ _ _) rfl⟩⟩
  | helloFrame | keepaliveFrame | openFrame | openAcceptFrame | openRefuseFrame | reopenFrame | reopenReplyFrame
  | closeFrameAtSource | closeFrameAtSink | closeAckFrame | promotedFrame | recordFrame | ackFrame | nakFrame =>
      exact ⟨_, rfl, .inl ⟨rfl, .happening _ (.frame _) rfl⟩⟩

/-- Settles O1: both clauses are the two arms of `step`. -/
theorem stepRunsFrontCommand : Obligations.StepRunsFrontCommand := by
  unfold Obligations.StepRunsFrontCommand
  refine ⟨fun c rest s => rfl, fun s h => ?_⟩
  simp only [step, h]

/-! ### A step, and what holds of every step -/

/-- A step that runs a command is `exec` of it on the queue's rest; on an empty queue nothing changes. -/
theorem step_cases {s t : State} (h : step s = .next t) :
    t = s ∨ ∃ c rest, s.pending = c :: rest ∧ exec c { s with pending := rest } = .next t := by
  unfold step at h
  split at h
  · cases h; exact .inl rfl
  · rename_i c rest hp; exact .inr ⟨c, rest, hp, h⟩

/-! ### Events that keep the configuration -/

theorem happening_kept {f : State → State} (h : Happening f) (s : State) : Kept s (f s) := by
  cases h with
  | present a => exact Kept.of_eq rfl rfl rfl rfl rfl rfl rfl rfl
  | accessAnswer ans d => exact handAnswer_kept ans fun ok _ => answerAccess_kept ok d
  | seedAnswer ans d => exact handAnswer_kept ans fun ok _ => answerSeed_kept ok d
  | applyAnswer ans => exact handAnswer_kept ans fun ok _ => answerApply_kept ok
  | hold => exact expireHold_kept
  | laneRise =>
      unfold laneRise; split
      · exact Kept.refl s
      · exact (modLink_kept _).trans tryTrain_kept
  | laneFall => exact (modLink_kept _).trans goDown_kept
  | bytes bs => exact whenReceiving_kept fun _ => deliverBytes_kept bs
  | frame f => exact whenReceiving_kept fun _ => deliver_kept f
  | hello => exact expireHello_kept
  | silence => exact expireSilence_kept
  | keepalive => exact expireKeepalive_kept
  | retx id => exact atStream_kept id fun i _ => expireRetx_kept i
  | control id => exact atStream_kept id fun i _ => expireControl_kept i
  | ack id => exact atStream_kept id fun i _ => expireAck_kept i
  | endFrame => exact endFrame_kept

theorem ownStep_kept {f : State → State} (h : OwnStep f) (s : State) : Kept s (f s) := by
  cases h with
  | offerHeld => exact stepOfferHeld_kept
  | offerSeed => exact stepOfferSeed_kept
  | grant r => exact stepGrant_kept r
  | transmit => exact stepTransmit_kept

/-- `Kept` without the length of the tick, which a tick renews. -/
structure KeptButTick (s t : State) : Prop where
  pending : t.pending = s.pending
  resetLow : t.resetLow = s.resetLow
  port : t.port = s.port
  settings : t.settings = s.settings
  masks : t.ev.unmasked = s.ev.unmasked
  config : ∀ j, (s.entry j).SameConfig (t.entry j)
  ranks : s.arb.ranks = true → t.arb.ranks = true

theorem Kept.butTick {s t : State} (h : Kept s t) : KeptButTick s t :=
  ⟨h.pending, h.resetLow, h.port, h.settings, h.masks, h.config, h.ranks⟩

theorem KeptButTick.trans {s t u : State} (h : KeptButTick s t) (k : KeptButTick t u) : KeptButTick s u :=
  ⟨k.pending.trans h.pending, k.resetLow.trans h.resetLow, k.port.trans h.port, k.settings.trans h.settings,
    k.masks.trans h.masks, fun j => (h.config j).trans (k.config j), fun r => k.ranks (h.ranks r)⟩

theorem tickWindow_kept (s : State) (i : WinIdx) : Kept s (tickWindow s i) := by
  unfold tickWindow
  split
  · exact Kept.refl s
  · rename_i c h; exact setSource_kept (source?_eq_some.mpr h) _
  · rename_i c h; exact (setRole_streamLocal (by simp [Entry.enabled, h])).kept

theorem tickTimers_keptButTick (s : State) : KeptButTick s (tickTimers s) := by
  have windows : ∀ u, KeptButTick s u → KeptButTick s (allWindows.foldl tickWindow u) := fun u h =>
    h.trans (Kept.foldl tickWindow_kept allWindows u).butTick
  unfold tickTimers
  exact windows _ ⟨rfl, rfl, rfl, rfl, rfl, fun _ => Entry.SameConfig.refl _, id⟩

theorem tickEvent_keptButTick (s : State) : KeptButTick s (tickEvent s) := by
  unfold tickEvent
  split
  · exact (Kept.refl s).butTick
  · have before : KeptButTick s (takeAllDue (settle s)) := (settle_kept.trans takeAllDue_kept).butTick
    have tick := before.trans (tickTimers_keptButTick (takeAllDue (settle s)))
    exact tick.trans (finish_kept (s := tickTimers (takeAllDue (settle s)))).butTick

/-- A command that is no management transaction and no reset keeps the configuration. -/
theorem Runs.keptButTick {c : Instr} {s t : State} (h : Runs c s t) : KeptButTick s t := by
  cases h with
  | own f hf ht => exact ht ▸ (ownStep_kept hf s).butTick
  | happening f hf ht => exact ht ▸ (outside_kept fun s => happening_kept hf s).butTick
  | tick hc ht => exact ht ▸ tickEvent_keptButTick s

theorem Runs.tickLength {c : Instr} {s t : State} (h : Runs c s t) (hc : c ≠ .tick) : t.tickLength = s.tickLength := by
  cases h with
  | own f hf ht => exact ht ▸ (ownStep_kept hf s).tickLength
  | happening f hf ht => exact ht ▸ (outside_kept fun s => happening_kept hf s).tickLength
  | tick hk ht => exact absurd hk hc

/-- Settles O3: a command that does not configure is one of the part's own steps, an outside event or a tick, and each of
them keeps the configuration. -/
theorem configurationFrame : Obligations.ConfigurationFrame := by
  unfold Obligations.ConfigurationFrame
  intro c s t hc he
  obtain ⟨u, hu, hk⟩ := exec_cases c s
  cases he.symm.trans hu
  rcases hk with ⟨_, hr⟩ | ⟨hc', _⟩
  · have k := hr.keptButTick
    exact ⟨k.settings, k.masks, k.port, k.resetLow, hr.tickLength, k.config⟩
  · simp [hc] at hc'

end Sys2Proof.Machine
end

section
/-! SUPPORT. What every step keeps of the queue, the settings, the arbiter's ranking and the window table (`TablesKept`): all
that `Kept` keeps, and what the management transactions and the resets, which change the configuration, keep of it. -/

namespace Sys2Proof.Machine

/-- The queue stands, and the settings, the ranking and the window table stay valid. -/
structure TablesKept (s t : State) : Prop where
  pending : t.pending = s.pending
  settings : s.settings.valid = true → t.settings.valid = true
  ranks : s.arb.ranks = true → t.arb.ranks = true
  windows : s.windowsValid = true → t.windowsValid = true

theorem TablesKept.refl (s : State) : TablesKept s s := ⟨rfl, id, id, id⟩

theorem TablesKept.trans {s t u : State} (h : TablesKept s t) (k : TablesKept t u) : TablesKept s u :=
  ⟨k.pending.trans h.pending, fun v => k.settings (h.settings v), fun v => k.ranks (h.ranks v),
    fun v => k.windows (h.windows v)⟩

/-- The window table stays valid where every entry keeps its configuration. -/
theorem windowsValid_of_config {s t : State} (h : ∀ j, (s.entry j).SameConfig (t.entry j))
    (hv : s.windowsValid = true) : t.windowsValid = true := by
  have k : Kept { t with windows := s.windows } t := ⟨rfl, rfl, rfl, rfl, rfl, rfl, h, id⟩
  exact k.windowsValid hv

theorem KeptButTick.tables {s t : State} (h : KeptButTick s t) : TablesKept s t :=
  ⟨h.pending, fun v => h.settings ▸ v, h.ranks, windowsValid_of_config h.config⟩

theorem Kept.tables {s t : State} (h : Kept s t) : TablesKept s t := h.butTick.tables

variable {s : State}

/-- The port is no part of the tables. -/
theorem port_tables (p : Port) : TablesKept s { s with port := p } := ⟨rfl, id, id, id⟩

/-! ### Writing settings and window entries -/

theorem clampAck_sinkLocal (i : WinIdx) : SinkLocal i s (clampAck s i) := by
  unfold clampAck
  split
  · split
    · dsimp only
      split
      · exact (modSink_sinkLocal _).trans (flagAck_sinkLocal _)
      · exact modSink_sinkLocal _
    · exact SinkLocal.refl i s
  · exact SinkLocal.refl i s

theorem settingChanged_kept (k : Setting) : Kept s (settingChanged k s) := by
  unfold settingChanged
  split
  · split
    · exact tryTrain_kept
    · exact goDown_kept
  · exact Kept.foldl (fun _ i => (clampAck_sinkLocal i).toStreamLocal.kept) _ _
  · exact Kept.refl s

/-- A write of a setting is refused, changes nothing, or puts an accepted value and acts on it (R173). -/
theorem writeSetting_cases (k : Setting) (v : Word) :
    (∃ r, writeSetting k v s = (s, r)) ∨
      s.settings.accepts k v.toNat = true ∧
        writeSetting k v s = (settingChanged k { s with settings := s.settings.put k v.toNat }, .done) := by
  unfold writeSetting
  split
  · exact .inl ⟨_, rfl⟩
  · split
    · exact .inl ⟨_, rfl⟩
    · exact .inr ⟨by simp_all, rfl⟩

theorem writeSetting_tables (k : Setting) (v : Word) : TablesKept s (writeSetting k v s).1 := by
  rcases writeSetting_cases (s := s) k v with ⟨r, h⟩ | ⟨ha, h⟩
  · rw [h]; exact TablesKept.refl s
  · rw [h]
    have put : TablesKept s { s with settings := s.settings.put k v.toNat } :=
      ⟨rfl, fun valid => settings_put_valid valid ha, id, id⟩
    exact put.trans (settingChanged_kept k).tables

theorem setEntry_windowsValid {i : WinIdx} {e : Entry} (he : e.valid = true)
    (hc : e.enabled = true → ∀ j, j ≠ i → (s.entry j).enabled = true → e.clashes (s.entry j) = false)
    (hv : s.windowsValid = true) : (s.setEntry i e).windowsValid = true := by
  have symm : ∀ a b : Entry, a.clashes b = b.clashes a := by
    intro a b
    simp only [Entry.clashes, Bool.and_comm (decide (a.base.toNat < _)), BEq.comm (a := a.stream)]
  simp only [State.windowsValid, Bool.and_eq_true, List.all_eq_true, mem_allWindows, true_implies,
    setEntry_entry] at hv ⊢
  obtain ⟨valid, apart⟩ := hv
  refine ⟨fun j => ?_, fun j k => ?_⟩
  · by_cases hj : j = i
    · simpa [hj] using he
    · simpa [hj] using valid j
  · have old := apart j k
    have toJ := fun h => hc h j
    have toK := fun h => hc h k
    by_cases hj : j = i <;> by_cases hk : k = i
    · simp [hj, hk]
    · simp only [hj, hk, if_true, if_false]
      cases h1 : e.enabled <;> cases h2 : (s.entry k).enabled <;> simp_all
    · simp only [hj, hk, if_true, if_false]
      cases h1 : e.enabled <;> cases h2 : (s.entry j).enabled <;> simp_all
    · simpa [hj, hk] using old

/-- The values of an accepted write lie in the ranges of R22. -/
theorem written_valid {e : Entry} {x : EntryItem} {v : Word} (h : e.valid = true) (hr : e.inRange x v = true) :
    (e.written x v).valid = true := by
  cases x <;> simp_all [Entry.valid, Entry.inRange, Entry.written]

/-- Writing the options leaves the range, the stream and the role (R23). -/
theorem written_options_clashes (e f : Entry) (v : Word) : (e.written .options v).clashes f = e.clashes f := rfl

theorem writeEntry_tables (i : WinIdx) (x : EntryItem) (v : Word) : TablesKept s (writeEntry i x v s).1 := by
  rcases writeEntry_cases (s := s) i x v with ⟨r, h, _⟩ | ⟨h, _, hr, hc⟩
  · rw [h]; exact TablesKept.refl s
  · rw [h]
    refine ⟨rfl, id, id, fun hv => ?_⟩
    have all := hv
    simp only [State.windowsValid, Bool.and_eq_true, List.all_eq_true, mem_allWindows, true_implies] at all
    obtain ⟨valid, apart⟩ := all
    refine setEntry_windowsValid (written_valid (valid i) hr) (fun he j hj hE => ?_) hv
    by_cases ho : x = .options
    · subst ho
      rw [written_options_clashes]
      have old := apart i j
      have he' : (s.entry i).enabled = true := he
      simpa [he', hE, Ne.symm hj] using old
    · have hx : (x != EntryItem.options) = true := bne_iff_ne.mpr ho
      simp only [State.conflicts, hx, he, Bool.true_and, List.any_eq_false, mem_allWindows, true_implies] at hc
      simpa [hj, hE] using hc j

theorem writeItem_tables (item : BitVec 16) (v : Word) : TablesKept s (writeItem item v s).1 := by
  unfold writeItem
  split
  · exact TablesKept.refl s
  · exact writeSetting_tables _ v
  · exact writeEntry_tables _ _ v
  · exact (Kept.refl s).tables.trans ⟨rfl, id, id, id⟩
  · exact TablesKept.refl s

/-! ### The stream operations -/

theorem openSource_sourceLocal (i : WinIdx) (c : SourceCtx) : SourceLocal i s (openSource i c s).1 := by
  unfold openSource
  split
  · exact openOrPend_sourceLocal _
  · exact SourceLocal.refl i s

theorem closeSource_sourceLocal (i : WinIdx) (c : SourceCtx) : SourceLocal i s (closeSource i c s).1 := by
  unfold closeSource
  split
  case h_1 => exact SourceLocal.refl i s
  case h_2 | h_3 | h_4 | h_5 => exact enterClosed_sourceLocal
  all_goals exact enterClosing_sourceLocal

theorem reseedSource_sourceLocal (i : WinIdx) (c : SourceCtx) : SourceLocal i s (reseedSource i c s).1 := by
  unfold reseedSource
  split
  case h_1 | h_2 | h_3 | h_4 | h_5 => exact reseed_sourceLocal
  all_goals exact SourceLocal.refl i s

theorem fenceSource_sourceLocal (i : WinIdx) (c : SourceCtx) (tag : Tag) :
    SourceLocal i s (fenceSource i c tag s).1 := by
  unfold fenceSource
  split
  · exact SourceLocal.refl i s
  · split
    · exact SourceLocal.refl i s
    · split
      · exact SourceLocal.refl i s
      · exact modSource_sourceLocal _

/-- The promotion of a sink window leaves the configuration, and the window enabled (R30). -/
theorem promote_kept {i : WinIdx} {c : SinkCtx} (h : s.sink? i = some c) : Kept s (promote i c s) := by
  rw [sink?_eq_some] at h
  have withdrawn : Kept s (withdrawApply i (setAckFlag (s.streamOf i) none s)) :=
    ((setAckFlag_sinkLocal (i := i) none).trans (withdrawApply_sinkLocal i)).toStreamLocal.kept
  have role : ∀ t : State, (t.entry i).enabled = true → ∀ p : Promotion, Kept t (t.setEntry i { t.entry i with
      role := .source (newSource c.epoch), promotion := some p }) := fun t ht p =>
    ⟨rfl, rfl, rfl, rfl, rfl, rfl, fun j => by
      by_cases hj : j = i
      · subst hj; simp only [setEntry_entry, if_true]; exact ⟨rfl, rfl, rfl, rfl, rfl, rfl, rfl, ht.symm⟩
      · simp only [setEntry_entry, hj, if_false]; exact Entry.SameConfig.refl _, id⟩
  have enabled : ((withdrawApply i (setAckFlag (s.streamOf i) none s)).entry i).enabled = true := by
    obtain ⟨_, _, _, _, _, _, _, e⟩ := withdrawn.config i
    rw [e]; simp [Entry.enabled, h]
  unfold promote
  exact ((withdrawn.trans (role _ enabled _)).trans (placePromoted_kept _ _)).trans (noticeWin_kept i)

theorem streamOp_kept (op : StreamOp) (argument : Byte) (i : WinIdx) : Kept s (streamOp op argument i s).1 := by
  unfold streamOp
  split
  · exact (openSource_sourceLocal i _).toStreamLocal.kept
  · exact (closeSource_sourceLocal i _).toStreamLocal.kept
  · exact (reseedSource_sourceLocal i _).toStreamLocal.kept
  · exact (fenceSource_sourceLocal i _ _).toStreamLocal.kept
  · exact (closeSink_sinkLocal _).toStreamLocal.kept
  · rename_i c _ h
    unfold promoteSink
    split
    · exact Kept.refl s
    · split
      · exact Kept.refl s
      · exact promote_kept (sink?_eq_some.mpr h)
  · exact Kept.refl s

theorem streamCmd_kept (id op argument : Byte) : Kept s (streamCmd id op argument s).1 := by
  unfold streamCmd
  split
  · exact Kept.refl s
  · split
    · exact Kept.refl s
    · split
      · exact Kept.refl s
      · exact streamOp_kept _ _ _

/-! ### Transactions and resets -/

theorem readEffect_tables (x : Item) : TablesKept s (readEffect x s) := by
  unfold readEffect
  split <;> exact ⟨rfl, id, id, id⟩

theorem transact_tables {act : State → State × Result × List Byte} (h : ∀ s, TablesKept s (act s).1)
    (execAt resultAt n : Nat) : TablesKept s (transact execAt resultAt n act s) := by
  by_cases hn : execAt < n
  · rw [transact_executes hn]; exact (h s).trans (port_tables _)
  · rw [transact_early (Nat.le_of_not_lt hn)]; exact port_tables _

theorem plain_tables {act : State → State × Result} (h : ∀ s, TablesKept s (act s).1) (s : State) :
    TablesKept s (plain act s).1 :=
  h s

theorem transaction_tables {f : State → State} (h : Transaction f) (s : State) : TablesKept s (f s) := by
  cases h with
  | read item n =>
      refine transact_tables (fun s => ?_) _ _ _
      change TablesKept s (readItem item s).1
      unfold readItem
      split
      · exact readEffect_tables _
      · exact TablesKept.refl s
  | write item v n => exact transact_tables (plain_tables fun _ => writeItem_tables item v) _ _ _
  | stream id op argument n =>
      have cmd : ∀ s, TablesKept s (streamCmd id op argument s).1 := fun s => (streamCmd_kept id op argument).tables
      exact transact_tables (plain_tables cmd) 3 4 n
  | ack causes n =>
      refine transact_tables (plain_tables fun s => ?_) 2 3 n
      exact ⟨rfl, id, id, id⟩
  | restart n =>
      refine transact_tables (fun s => ?_) _ _ _
      change TablesKept s (restartLink s)
      unfold restartLink
      split
      · exact TablesKept.refl s
      · exact dropLink_kept.tables
  | reset n =>
      unfold resetTransaction
      have h : TablesKept s (transact 0 1 n (plain fun s => (s, .done)) s) :=
        transact_tables (plain_tables fun s => TablesKept.refl s) _ _ _
      dsimp only
      split
      · exact h.trans (port_tables _)
      · exact h
  | bad n => exact transact_tables (plain_tables fun s => TablesKept.refl s) _ _ _

theorem softAccess_kept : Kept s (softAccess s) := by
  unfold softAccess
  split
  · exact respond_kept _ _
  all_goals exact Kept.of_eq rfl rfl rfl rfl rfl rfl rfl rfl

/-- The soft reset of an entry leaves its configuration (R38). -/
theorem softReset_sameConfig (e : Entry) : e.SameConfig e.softReset := by
  refine ⟨rfl, rfl, rfl, rfl, rfl, rfl, rfl, ?_⟩
  unfold Entry.softReset Entry.enabled
  cases e.role <;> rfl

theorem softWindows_kept : Kept s (softWindows s) := by
  unfold softWindows
  refine Kept.foldl (fun t i => ?_) _ _
  refine ⟨rfl, rfl, rfl, rfl, rfl, rfl, fun j => ?_, id⟩
  by_cases hj : j = i
  · subst hj; simpa using softReset_sameConfig (t.entry j)
  · simpa [hj] using Entry.SameConfig.refl (t.entry j)

theorem softReset_tables : TablesKept s (softReset s) := by
  unfold softReset
  dsimp only
  have h : TablesKept s (softWindows (softAccess s)) := (softAccess_kept.trans softWindows_kept).tables
  have train : ∀ u, TablesKept s u → TablesKept s (tryTrain u) := fun u k => k.trans tryTrain_kept.tables
  generalize softWindows (softAccess s) = u at h ⊢
  exact train _ ⟨h.pending, h.settings, h.ranks, h.windows⟩

theorem rise_tables : TablesKept s (rise s) := by
  unfold rise
  split
  · exact softReset_tables
  · exact TablesKept.refl s

theorem riseIfDue_tables : TablesKept s (riseIfDue s) := by
  unfold riseIfDue
  split
  · exact (rise_tables.trans finish_kept.tables).trans settle_kept.tables
  · exact TablesKept.refl s

theorem manage_tables {f : State → State} (h : ∀ s, TablesKept s (f s)) : TablesKept s (manage f s) := by
  unfold manage
  split
  · exact TablesKept.refl s
  · exact ((settle_kept.tables.trans riseIfDue_tables).trans (h _)).trans finish_kept.tables

/-- The reset values are valid ones (R37, R172). -/
theorem pinReset_tables (low : Bool) : TablesKept s (pinReset low s) :=
  ⟨rfl, fun _ => (by decide : State.reset.settings.valid = true), fun _ => (by decide : State.reset.arb.ranks = true),
    fun _ => (by decide : State.reset.windowsValid = true)⟩

theorem Configures.tables {s t : State} (h : Configures s t) : TablesKept s t := by
  cases h with
  | transaction f hf ht => exact ht ▸ manage_tables fun s => transaction_tables hf s
  | softReset ht => exact ht ▸ (settle_kept.tables.trans rise_tables).trans finish_kept.tables
  | assert ht => exact ht ▸ settle_kept.tables.trans (pinReset_tables true)
  | release ht =>
      subst ht
      unfold releaseEvent
      split
      · exact (pinReset_tables false).trans finish_kept.tables
      · exact TablesKept.refl s

theorem exec_tables {c : Instr} {s t : State} (h : exec c s = .next t) : TablesKept s t := by
  obtain ⟨u, hu, hk⟩ := exec_cases c s
  cases h.symm.trans hu
  rcases hk with ⟨_, hr⟩ | ⟨_, hr⟩
  · exact hr.keptButTick.tables
  · exact hr.tables

/-- Settles O2: `exec_cases` gives the next state, and every kind of command leaves the queue. -/
theorem everyCommandAnswersAndKeepsQueue : Obligations.EveryCommandAnswersAndKeepsQueue := by
  unfold Obligations.EveryCommandAnswersAndKeepsQueue
  intro c s
  obtain ⟨t, ht, _⟩ := exec_cases c s
  exact ⟨t, ht, (exec_tables ht).pending⟩

/-- Settles O57: the three invariants are parts of `TablesKept`, which every kind of command has. -/
theorem tablesStayValid : Obligations.TablesStayValid := by
  unfold Obligations.TablesStayValid
  intro s t h
  rcases step_cases h with rfl | ⟨c, rest, _, he⟩
  · exact ⟨id, id, id⟩
  · have k := exec_tables he
    exact ⟨k.settings, k.ranks, k.windows⟩

/-- Settles O60: each conjunct is a closed fact about the one reset state. -/
theorem resetIsValid : Obligations.ResetIsValid := by
  unfold Obligations.ResetIsValid
  decide

end Sys2Proof.Machine
end

section
/-! SUPPORT. The discard of a stream and what is built on it, each as one replacement of the context and one change of the
two holders, the offers and the event unit: discard (R55), fault (R115), CLOSED (R118), and the contexts they leave. -/

namespace Sys2Proof.Machine

variable {s : State} {i : WinIdx} {c : SourceCtx}

/-! ### The contexts -/

/-- The context a discard leaves: the journal empty, an outstanding fence abandoned (R55, R58). -/
def SourceCtx.discarded (c : SourceCtx) : SourceCtx :=
  { c with
    queue := [], oldest := c.nextSeq, txPtr := c.nextSeq, cursor := 0, fence := none
    lastFence := match c.fence with
      | some tag => some (.abandoned, tag)
      | none => c.lastFence }

/-- The context that enters FAULT (R115). -/
def SourceCtx.faulted (c : SourceCtx) (r : FaultReason) : SourceCtx :=
  { c.discarded.stopTimers with state := .fault, openReason := none, faultReason := r, diverged := true }

/-- The context that enters CLOSED (R118). -/
def SourceCtx.closedNow (c : SourceCtx) : SourceCtx :=
  { c.discarded.stopTimers with state := .closed, openReason := none }

/-- The context that enters CLOSING (R117). -/
def SourceCtx.closingNow (c : SourceCtx) (timeout : Nat) : SourceCtx :=
  { c.discarded with state := .closing, openReason := none, retxTimer := none, triesLeft := Config.controlTries - 1,
                     ctlTimer := some timeout }

/-- The context that enters OPENING (R33, R104). -/
def SourceCtx.openingNow (c : SourceCtx) (r : OpenReason) (timeout : Nat) : SourceCtx :=
  { c with
    state := .opening, openReason := some r, epoch := c.epoch + 1#8, nextSeq := 0#16, oldest := 0#16, txPtr := 0#16,
    cursor := 0, retryCount := 0, faultReason := .none, diverged := false, retxTimer := none,
    triesLeft := Config.controlTries - 1, ctlTimer := some timeout }

/-- The context a reseed has discarded, before it opens or waits for the link (R113). -/
def SourceCtx.reseeding (c : SourceCtx) : SourceCtx :=
  { c.discarded.stopTimers with reseeds := c.reseeds + 1#32 }

/-- The event unit after a discard: an abandoned fence is told (R58). -/
def discardEv (id : StreamId) (c : SourceCtx) (e : EventUnit) : EventUnit :=
  match c.fence with
  | some _ => (e.addNotice id).raise .fenceDone
  | none => e

/-! ### One replacement of the role -/

/-- The state with the context of window `i` replaced, and the holders, the offers and the event unit of a discard. -/
def State.afterDiscard (s : State) (i : WinIdx) (d : SourceCtx) (e : EventUnit) : State :=
  { s.setRole i (.source d) with
    acc := s.acc.discard i, seed := s.seed.discard i, offers := { held := true, seed := true }, ev := e }

section AfterDiscard

variable (d : SourceCtx) (e : EventUnit) (j : WinIdx)

@[simp] theorem afterDiscard_entry : (s.afterDiscard i d e).entry j =
    if j = i then { s.entry i with role := .source d } else s.entry j :=
  setRole_entry s i j (.source d)

@[simp] theorem afterDiscard_source? : (s.afterDiscard i d e).source? j = if j = i then some d else s.source? j :=
  setRole_source? s i j (.source d)

@[simp] theorem afterDiscard_acc : (s.afterDiscard i d e).acc = s.acc.discard i := rfl
@[simp] theorem afterDiscard_seed : (s.afterDiscard i d e).seed = s.seed.discard i := rfl
@[simp] theorem afterDiscard_offers : (s.afterDiscard i d e).offers = { held := true, seed := true } := rfl
@[simp] theorem afterDiscard_ev : (s.afterDiscard i d e).ev = e := rfl
@[simp] theorem afterDiscard_sched : (s.afterDiscard i d e).sched = s.sched := rfl
@[simp] theorem afterDiscard_link : (s.afterDiscard i d e).link = s.link := rfl
@[simp] theorem afterDiscard_settings : (s.afterDiscard i d e).settings = s.settings := rfl
@[simp] theorem afterDiscard_apply : (s.afterDiscard i d e).apply = s.apply := rfl
@[simp] theorem afterDiscard_arb : (s.afterDiscard i d e).arb = s.arb := rfl
@[simp] theorem afterDiscard_bus : (s.afterDiscard i d e).bus = s.bus := rfl

theorem afterDiscard_modSource (f : SourceCtx → SourceCtx) :
    (s.afterDiscard i d e).modSource i f = s.afterDiscard i (f d) e := by
  rw [modSource_some f (c := d) (by simp)]
  exact congrArg (fun t : State => { t with
    acc := s.acc.discard i, seed := s.seed.discard i, offers := { held := true, seed := true }, ev := e })
    (setRole_setRole s i (.source d) (.source (f d)))

theorem afterDiscard_notice (x : Cause) : raise x (noticeWin i (s.afterDiscard i d e)) =
    s.afterDiscard i d ((e.addNotice (s.entry i).stream).raise x) := by
  have stream : (s.afterDiscard i d e).streamOf i = (s.entry i).stream := by simp [State.streamOf]
  simp only [noticeWin, stream]
  rfl

end AfterDiscard

/-! ### The operations -/

/-- The discard of a source stream's journal (R55). -/
theorem discard_eq (h : s.source? i = some c) :
    discard i s = s.afterDiscard i c.discarded (discardEv (s.entry i).stream c s.ev) := by
  unfold discard
  dsimp only
  rw [modSource_some _ h]
  generalize hd : ({ c with queue := [], oldest := c.nextSeq, txPtr := c.nextSeq, cursor := 0 } : SourceCtx) = d
  have fence : d.fence = c.fence := by rw [← hd]
  have ctx : (s.setRole i (.source d)).source? i = some d := by simp [setRole_source?]
  unfold abandonFence
  rw [ctx]
  dsimp only
  rw [fence]
  cases hf : c.fence with
  | none =>
      have keeps : c.discarded = d := by
        rw [← hd]; cases c; simp only at hf; subst hf; rfl
      simp only [discardEv, hf, keeps]
      rfl
  | some tag =>
      have ends : ({ d with fence := none, lastFence := some (.abandoned, tag) } : SourceCtx) = c.discarded := by
        rw [← hd]; simp only [SourceCtx.discarded, hf]
      have told : (endFence i .abandoned tag (s.setRole i (.source d))) =
          { s.setRole i (.source c.discarded) with ev := (s.ev.addNotice (s.entry i).stream).raise .fenceDone } := by
        unfold endFence
        rw [modSource_some _ ctx, setRole_setRole, ends]
        simp [raise, noticeWin, addNotice, State.streamOf]
      simp only [told, discardEv, hf]
      rfl

/-- Where the window has no source context a discard takes from the holders alone. -/
theorem discard_none (h : s.source? i = none) :
    discard i s = { s with
      acc := s.acc.discard i, seed := s.seed.discard i, offers := { held := true, seed := true } } := by
  simp [discard, abandonFence, modSource_none _ h, h, release]

/-- Entering FAULT (R115). -/
theorem faultStream_eq (h : s.source? i = some c) (r : FaultReason) :
    faultStream i r s = s.afterDiscard i (c.faulted r)
      (((discardEv (s.entry i).stream c s.ev).addNotice (s.entry i).stream).raise .streamFault) := by
  unfold faultStream
  dsimp only
  rw [discard_eq h, afterDiscard_modSource, afterDiscard_notice]
  rfl

/-- Entering CLOSED (R118). -/
theorem enterClosed_eq (h : s.source? i = some c) :
    enterClosed i s = s.afterDiscard i c.closedNow (discardEv (s.entry i).stream c s.ev) := by
  unfold enterClosed
  rw [discard_eq h, afterDiscard_modSource]
  rfl

/-- Entering CLOSING (R117). -/
theorem enterClosing_eq (h : s.source? i = some c) :
    enterClosing i s = place (s.entry i).stream c.epoch (.close .fromLocal)
      (s.afterDiscard i (c.closingNow s.settings.controlTimeout) (discardEv (s.entry i).stream c s.ev)) := by
  unfold enterClosing
  dsimp only
  rw [discard_eq h, afterDiscard_modSource]
  simp only [afterDiscard_source?, if_true, State.streamOf, afterDiscard_entry, afterDiscard_settings]
  rfl

/-- Entering OPENING (R104). -/
theorem enterOpening_eq (h : s.source? i = some c) (r : OpenReason) :
    enterOpening i r s = place (s.entry i).stream (c.epoch + 1#8) (.openReq (s.entry i).length r)
      (s.setEntry i { s.entry i with
        role := .source (c.openingNow r s.settings.controlTimeout), promotion := none }) := by
  simp only [enterOpening, h]
  rfl

/-- A reseed: the discard, its notice and cause, and the opening or the wait for the link (R113). -/
theorem reseed_eq (h : s.source? i = some c) :
    reseed i s = openOrPend i .reseed (s.afterDiscard i c.reseeding
      (((discardEv (s.entry i).stream c s.ev).addNotice (s.entry i).stream).raise .streamReseed)) := by
  unfold reseed
  dsimp only
  rw [discard_eq h, afterDiscard_modSource, afterDiscard_notice]
  rfl

/-- Outside UP a reseed waits for the link (R113). -/
theorem reseed_eq_of_not_up (h : s.source? i = some c) (hl : s.link.state ≠ .up) :
    reseed i s = s.afterDiscard i { c.reseeding with state := .pending, openReason := some .reseed }
      (((discardEv (s.entry i).stream c s.ev).addNotice (s.entry i).stream).raise .streamReseed) := by
  rw [reseed_eq h]
  simp only [openOrPend, afterDiscard_link, hl, if_false, afterDiscard_modSource]

/-- In UP a reseed opens at once (R113). -/
theorem reseed_eq_of_up (h : s.source? i = some c) (hl : s.link.state = .up) :
    reseed i s = setCtlSlot (s.entry i).stream
      (some { epoch := c.epoch + 1#8, body := .openReq (s.entry i).length .reseed })
      ((s.afterDiscard i c.reseeding
        (((discardEv (s.entry i).stream c s.ev).addNotice (s.entry i).stream).raise .streamReseed)).setEntry i
          { s.entry i with
            role := .source (c.reseeding.openingNow .reseed s.settings.controlTimeout), promotion := none }) := by
  rw [reseed_eq h]
  simp only [openOrPend, afterDiscard_link, hl, if_true]
  rw [enterOpening_eq (c := c.reseeding) (by simp)]
  simp [place, hl, SourceCtx.reseeding, SourceCtx.discarded, SourceCtx.stopTimers]

end Sys2Proof.Machine
end

section
/-! SUPPORT. The transmit scheduler under the operations of the stream controllers: most of them leave it alone, and those
that place a control frame do nothing else to it. -/

namespace Sys2Proof.Machine

variable {s : State} {i : WinIdx} {c : SourceCtx}

/-! ### Placing and flagging -/

theorem place_of_up (h : s.link.state = .up) (id : StreamId) (epoch : Epoch) (b : Body) :
    place id epoch b s = setCtlSlot id (some { epoch := epoch, body := b }) s := by
  simp [place, h]

theorem place_of_not_up (h : s.link.state ≠ .up) (id : StreamId) (epoch : Epoch) (b : Body) :
    place id epoch b s = s := by
  simp [place, h]

theorem flag_of_up (h : s.link.state = .up) (id : StreamId) (f : AckFlag) : flag id f s = setAckFlag id (some f) s := by
  simp [flag, h]

theorem flag_of_not_up (h : s.link.state ≠ .up) (id : StreamId) (f : AckFlag) : flag id f s = s := by
  simp [flag, h]

@[simp] theorem setCtlSlot_sched (id : StreamId) (f : Option CtlFrame) :
    (setCtlSlot id f s).sched = { s.sched with ctl := s.sched.ctl.set (slotIdx id) f } := rfl

@[simp] theorem setAckFlag_sched (id : StreamId) (f : Option AckFlag) :
    (setAckFlag id f s).sched = { s.sched with ack := s.sched.ack.set (slotIdx id) f } := rfl

/-- What placing does to the scheduler depends on the scheduler and the link's state alone. -/
theorem place_sched_congr {t : State} (hs : t.sched = s.sched) (hl : t.link.state = s.link.state) (id : StreamId)
    (epoch : Epoch) (b : Body) : (place id epoch b t).sched = (place id epoch b s).sched := by
  by_cases h : s.link.state = .up
  · rw [place_of_up h, place_of_up (hl.trans h), setCtlSlot_sched, setCtlSlot_sched, hs]
  · rw [place_of_not_up h, place_of_not_up (hl ▸ h), hs]

/-- Placing touches nothing but the scheduler. -/
theorem place_frame (id : StreamId) (epoch : Epoch) (b : Body) :
    place id epoch b s = { s with sched := (place id epoch b s).sched } := by
  unfold place; split <;> rfl

section Place

variable (id : StreamId) (epoch : Epoch) (b : Body) (j : WinIdx)

@[simp] theorem place_entry : (place id epoch b s).entry j = s.entry j := by rw [place_frame]; rfl
@[simp] theorem place_source? : (place id epoch b s).source? j = s.source? j := by rw [place_frame]; rfl
@[simp] theorem place_sink? : (place id epoch b s).sink? j = s.sink? j := by rw [place_frame]; rfl
@[simp] theorem place_ev : (place id epoch b s).ev = s.ev := by rw [place_frame]
@[simp] theorem place_seed : (place id epoch b s).seed = s.seed := by rw [place_frame]
@[simp] theorem place_acc : (place id epoch b s).acc = s.acc := by rw [place_frame]
@[simp] theorem place_link : (place id epoch b s).link = s.link := by rw [place_frame]
@[simp] theorem place_offers : (place id epoch b s).offers = s.offers := by rw [place_frame]
@[simp] theorem place_settings : (place id epoch b s).settings = s.settings := by rw [place_frame]

end Place

/-- Outside UP placing leaves the scheduler alone (R97). -/
theorem place_sched_of_not_up (h : s.link.state ≠ .up) (id : StreamId) (epoch : Epoch) (b : Body) :
    (place id epoch b s).sched = s.sched := by
  rw [place_of_not_up h]

/-- An operation on one stream leaves the link in its state. -/
theorem StreamLocal.linkState {t : State} (h : StreamLocal i s t) : t.link.state = s.link.state := by
  rw [h.link]

/-! ### Source operations that leave the scheduler alone -/

@[simp] theorem raise_sched (x : Cause) : (raise x s).sched = s.sched := rfl
@[simp] theorem noticeWin_sched (k : WinIdx) : (noticeWin k s).sched = s.sched := rfl
@[simp] theorem release_sched : (release s).sched = s.sched := rfl
@[simp] theorem countStale_sched : (countStale s).sched = s.sched := rfl
@[simp] theorem joinSeedQueue_sched (k : WinIdx) : (joinSeedQueue k s).sched = s.sched := rfl

@[simp] theorem endFence_sched (o : FenceOutcome) (tag : Tag) : (endFence i o tag s).sched = s.sched := by
  simp [endFence]

@[simp] theorem abandonFence_sched : (abandonFence i s).sched = s.sched := by
  unfold abandonFence
  split
  · split <;> simp
  · rfl

@[simp] theorem seedEndFreed_sched : (seedEndFreed i s).sched = s.sched := by
  unfold seedEndFreed
  split
  · split <;> simp
  · rfl

@[simp] theorem freeBefore_sched (e : Seq) : (freeBefore i e s).sched = s.sched := by
  unfold freeBefore
  split
  · rfl
  · dsimp only
    split <;> split <;> split <;> simp

@[simp] theorem discard_sched : (discard i s).sched = s.sched := by
  simp [discard]

@[simp] theorem faultStream_sched (r : FaultReason) : (faultStream i r s).sched = s.sched := by
  simp [faultStream]

@[simp] theorem enterClosed_sched : (enterClosed i s).sched = s.sched := by
  simp [enterClosed]

@[simp] theorem suspendSource_sched (p : Prior) : (suspendSource i p s).sched = s.sched := by
  unfold suspendSource
  dsimp only
  split <;> simp

@[simp] theorem sourceLinkLeft_sched : (sourceLinkLeft s i).sched = s.sched := by
  unfold sourceLinkLeft
  split
  · rfl
  · split <;> simp

@[simp] theorem takeContinue_sched (e : Seq) : (takeContinue i e s).sched = s.sched := by
  unfold takeContinue
  dsimp only
  split
  · split <;> simp
  · simp

@[simp] theorem takeAck_sched (d : SourceCtx) (a : Seq) : (takeAck i d a s).sched = s.sched := by
  unfold takeAck
  split <;> simp

@[simp] theorem takeNak_sched (d : SourceCtx) (a : Seq) : (takeNak i d a s).sched = s.sched := by
  unfold takeNak
  split <;> simp

@[simp] theorem yieldIfOn_sched : (yieldIfOn i s).sched = s.sched := by
  unfold yieldIfOn
  split
  · simp [yieldWindow]
  · rfl

@[simp] theorem takePromoted_sched (d : SourceCtx) (l : Seq) : (takePromoted i d l s).sched = s.sched := by
  unfold takePromoted
  dsimp only
  split <;> simp

@[simp] theorem retxExpired_sched (d : SourceCtx) : (retxExpired i d s).sched = s.sched := by
  unfold retxExpired
  split
  · split <;> simp
  · split <;> simp
  · simp

/-! ### Source operations that place a control frame -/

/-- Entering OPENING places the OPEN of the next epoch (R104). -/
theorem enterOpening_sched (h : s.source? i = some c) (r : OpenReason) :
    (enterOpening i r s).sched =
      (place (s.entry i).stream (c.epoch + 1#8) (.openReq (s.entry i).length r) s).sched := by
  rw [enterOpening_eq h]
  exact place_sched_congr (by simp) (by simp) _ _ _

theorem openOrPend_sched (h : s.source? i = some c) (r : OpenReason) :
    (openOrPend i r s).sched =
      (place (s.entry i).stream (c.epoch + 1#8) (.openReq (s.entry i).length r) s).sched := by
  unfold openOrPend
  split
  · exact enterOpening_sched h r
  · rename_i hl
    rw [place_of_not_up hl, modSource_sched]

/-- A reseed places the OPEN of the next epoch (R113). -/
theorem reseed_sched (h : s.source? i = some c) :
    (reseed i s).sched =
      (place (s.entry i).stream (c.epoch + 1#8) (.openReq (s.entry i).length .reseed) s).sched := by
  rw [reseed_eq h, openOrPend_sched (c := c.reseeding) (by simp)]
  simp only [afterDiscard_entry, if_true]
  exact place_sched_congr (by simp) (by simp) _ _ _

/-- Entering CLOSING places the CLOSE of the context's epoch (R117). -/
theorem enterClosing_sched (h : s.source? i = some c) :
    (enterClosing i s).sched = (place (s.entry i).stream c.epoch (.close .fromLocal) s).sched := by
  rw [enterClosing_eq h]
  exact place_sched_congr (by simp) (by simp) _ _ _

/-! ### Outside UP nothing is placed -/

theorem openOrPend_sched_of_not_up (h : s.link.state ≠ .up) (r : OpenReason) : (openOrPend i r s).sched = s.sched := by
  simp [openOrPend, h]

theorem discard_source?_none (h : s.source? i = none) : (discard i s).source? i = none := by
  rw [discard_none h]; exact h

theorem reseed_sched_of_not_up (h : s.link.state ≠ .up) : (reseed i s).sched = s.sched := by
  cases hc : s.source? i with
  | some c => rw [reseed_sched hc, place_sched_of_not_up h]
  | none =>
      unfold reseed
      dsimp only
      rw [modSource_none _ (discard_source?_none hc), discard_none hc, openOrPend_sched_of_not_up (by exact h)]
      simp

theorem enterClosing_sched_of_not_up (h : s.link.state ≠ .up) : (enterClosing i s).sched = s.sched := by
  cases hc : s.source? i with
  | some c => rw [enterClosing_sched hc, place_sched_of_not_up h]
  | none =>
      have gone := discard_source?_none hc
      simp only [enterClosing, modSource_none _ gone, gone, discard_sched]

end Sys2Proof.Machine
end

section
/-! SUPPORT. `LinkKept`: what most events leave alone of the link controller, and the link's own transitions. The invariant
`linkValid` is kept by the first and shown afresh for the second. -/

namespace Sys2Proof.Machine

/-- The link but its counters, LINK_ENABLE and RESET_N stand, and outside UP an empty scheduler stays empty. -/
structure LinkKept (s t : State) : Prop where
  link : t.link = { s.link with counters := t.link.counters }
  enable : t.settings.linkEnable = s.settings.linkEnable
  resetLow : t.resetLow = s.resetLow
  empty : s.link.state ≠ .up → s.sched.allEmpty = true → t.sched.allEmpty = true

theorem LinkKept.refl (s : State) : LinkKept s s := ⟨rfl, rfl, rfl, fun _ => id⟩

theorem LinkKept.state {s t : State} (h : LinkKept s t) : t.link.state = s.link.state := by rw [h.link]

theorem LinkKept.trans {s t u : State} (h : LinkKept s t) (k : LinkKept t u) : LinkKept s u :=
  ⟨by rw [k.link, h.link], k.enable.trans h.enable, k.resetLow.trans h.resetLow,
    fun hs he => k.empty (h.state ▸ hs) (h.empty hs he)⟩

theorem LinkKept.linkValid {s t : State} (h : LinkKept s t) (hv : s.linkValid = true) : t.linkValid = true := by
  obtain ⟨hl, he, hr, hq⟩ := h
  unfold State.linkValid at hv ⊢
  rw [hl, he, hr]
  cases hs : s.link.state <;> simp only [hs, Bool.and_eq_true] at hv hq ⊢
  · exact ⟨hv.1, hq (by simp) hv.2⟩
  · exact ⟨hv.1, hq (by simp) hv.2⟩
  · exact hv

variable {s : State} {i : WinIdx}

/-- A change outside link, scheduler, settings and pins. -/
theorem LinkKept.of_eq {t : State} (h1 : t.link = s.link) (h2 : t.settings = s.settings) (h3 : t.resetLow = s.resetLow)
    (h4 : t.sched = s.sched) : LinkKept s t :=
  ⟨by rw [h1], by rw [h2], h3, fun _ h => h4 ▸ h⟩

/-- A stream operation that leaves the scheduler alone, outside UP, keeps the link. -/
theorem StreamLocal.linkKept {t : State} (h : StreamLocal i s t)
    (hs : s.link.state ≠ .up → s.sched.allEmpty = true → t.sched.allEmpty = true) : LinkKept s t :=
  ⟨h.link, by rw [h.settings], h.resetLow, hs⟩

theorem StreamLocal.linkKept_of_sched {t : State} (h : StreamLocal i s t)
    (hs : s.link.state ≠ .up → t.sched = s.sched) : LinkKept s t :=
  h.linkKept fun hn he => by rw [hs hn]; exact he

/-! ### Empty slots and flags -/

theorem ackFlag_of_allEmpty (h : s.sched.allEmpty = true) (id : StreamId) : s.ackFlag id = none := by
  simp only [Sched.allEmpty, Bool.and_eq_true, List.all_eq_true] at h
  have flag := h.2 (s.ackFlag id) (by simp [State.ackFlag])
  simpa using flag

theorem setAckFlag_none_linkKept (id : StreamId) : LinkKept s (setAckFlag id none s) := by
  refine ⟨rfl, rfl, rfl, fun _ h => ?_⟩
  simp only [Sched.allEmpty, Bool.and_eq_true, List.all_eq_true] at h ⊢
  refine ⟨h.1, fun f hf => ?_⟩
  obtain ⟨k, hk, rfl⟩ := List.mem_iff_getElem.mp hf
  simp only [Vector.length_toList] at hk
  simp only [setAckFlag_sched, Vector.getElem_toList, Vector.getElem_set]
  split
  · rfl
  · exact h.2 _ (by simp)

theorem flag_linkKept (id : StreamId) (f : AckFlag) : LinkKept s (flag id f s) := by
  unfold flag
  split
  · rename_i h; exact ⟨rfl, rfl, rfl, fun hn => absurd h hn⟩
  · exact LinkKept.refl s

theorem place_linkKept (id : StreamId) (epoch : Epoch) (b : Body) : LinkKept s (place id epoch b s) := by
  unfold place
  split
  · rename_i h; exact ⟨rfl, rfl, rfl, fun hn => absurd h hn⟩
  · exact LinkKept.refl s

/-! ### The sink side -/

theorem modSink_linkKept (f : SinkCtx → SinkCtx) : LinkKept s (s.modSink i f) :=
  LinkKept.of_eq (by simp) (by simp) (by simp) (by simp)

theorem modSource_linkKept (f : SourceCtx → SourceCtx) : LinkKept s (s.modSource i f) :=
  LinkKept.of_eq (by simp) (by simp) (by simp) (by simp)

theorem noticeWin_linkKept (k : WinIdx) : LinkKept s (noticeWin k s) := LinkKept.of_eq rfl rfl rfl rfl

theorem raise_linkKept (x : Cause) : LinkKept s (raise x s) := LinkKept.of_eq rfl rfl rfl rfl

theorem withdrawApply_linkKept (k : WinIdx) : LinkKept s (withdrawApply k s) := by
  unfold withdrawApply
  split
  · exact LinkKept.of_eq rfl rfl rfl rfl
  · exact LinkKept.refl s

theorem flagAck_linkKept (id : StreamId) (c : SinkCtx) : LinkKept s (flagAck id c s) := by
  unfold flagAck
  split
  · split
    · exact LinkKept.refl s
    · exact flag_linkKept _ _
  · exact flag_linkKept _ _

theorem refreshAck_linkKept (id : StreamId) (c : SinkCtx) : LinkKept s (refreshAck id c s) := by
  unfold refreshAck
  split
  · rename_i f hf
    split
    · exact LinkKept.refl s
    · refine ⟨rfl, rfl, rfl, fun _ he => ?_⟩
      rw [ackFlag_of_allEmpty he] at hf
      cases hf
  · exact LinkKept.refl s

theorem nakOnce_linkKept : LinkKept s (nakOnce i s) := by
  unfold nakOnce
  split
  · split
    · exact LinkKept.refl s
    · exact (modSink_linkKept _).trans (flag_linkKept _ _)
  · exact LinkKept.refl s

/-- Applying a marker to a known context: the context is moved on, its ACK flagged, and a SEED_END ends the seeding
(R134). -/
theorem applyMarker_some {c : SinkCtx} (h : s.sink? i = some c) (r : RecBody) :
    ∃ m d u, u = flagAck (s.streamOf i) d (s.modSink i m) ∧
      (applyMarker i r s = u ∨
        applyMarker i r s = raise .streamLive (noticeWin i (u.modSink i fun c => { c with state := .live }))) := by
  unfold applyMarker
  dsimp only
  generalize hm : (fun c : SinkCtx => SinkCtx.countAck _ 1 s.settings) = m
  have ctx : (s.modSink i m).sink? i = some (m c) := by simp [h]
  have stream : (s.modSink i m).streamOf i = s.streamOf i := (modSink_sinkLocal m).config.2.2.1
  rw [ctx, stream]
  refine ⟨m, m c, _, rfl, ?_⟩
  dsimp only
  split
  · split
    · exact .inr rfl
    · exact .inl rfl
  · exact .inl rfl

theorem applyMarker_linkKept (r : RecBody) : LinkKept s (applyMarker i r s) := by
  cases hc : s.sink? i with
  | none =>
      have same : applyMarker i r s = s := by simp [applyMarker, modSink_none _ hc, hc]
      rw [same]; exact LinkKept.refl s
  | some c =>
      obtain ⟨m, d, u, hu, h⟩ := applyMarker_some hc r
      have acked : LinkKept s u := hu ▸ (modSink_linkKept m).trans (flagAck_linkKept _ d)
      rcases h with h | h
      · rw [h]; exact acked
      · rw [h]; exact ((acked.trans (modSink_linkKept _)).trans (noticeWin_linkKept i)).trans (raise_linkKept _)

theorem countStale_linkKept : LinkKept s (countStale s) := ⟨rfl, rfl, rfl, fun _ => id⟩

theorem discardUnusable_linkKept : LinkKept s (discardUnusable i s) :=
  ((modSink_linkKept _).trans countStale_linkKept).trans nakOnce_linkKept

theorem applyTest_linkKept (n : Nat) : LinkKept s (applyTest i n s) := by
  induction n generalizing s with
  | zero => exact LinkKept.refl s
  | succ n ih =>
      unfold applyTest
      split
      · split
        · exact (applyMarker_linkKept _).trans ih
        · exact discardUnusable_linkKept
        · exact LinkKept.refl s
      · exact LinkKept.refl s

theorem completeApply_linkKept (v : Served) : LinkKept s (completeApply v s) := by
  have test : ∀ u, LinkKept s u → LinkKept s (applyTest v.win 5 u) := fun u h => h.trans (applyTest_linkKept 5)
  unfold completeApply
  dsimp only
  generalize hm : s.modSink v.win _ = t
  have modified : LinkKept s t := hm ▸ modSink_linkKept _
  split
  · rename_i b c _ _
    split
    · have fresh := modified.trans (refreshAck_linkKept (t.streamOf v.win) c)
      generalize refreshAck (t.streamOf v.win) c t = u at fresh ⊢
      refine test _ ?_
      split
      · exact fresh.trans (flagAck_linkKept _ _)
      · exact fresh
    · exact modified
  · exact modified

theorem closeSinkCtx_linkKept (r : CloseReason) : LinkKept s (closeSinkCtx i r s) :=
  ((modSink_linkKept _).trans (setAckFlag_none_linkKept _)).trans (withdrawApply_linkKept i)

theorem applyErrorClose_linkKept : LinkKept s (applyErrorClose i s) := by
  unfold applyErrorClose
  split
  · have closed := ((closeSinkCtx_linkKept (i := i) (s := s) .applyError).trans (noticeWin_linkKept i)).trans
      (raise_linkKept .streamClosed)
    dsimp only
    split
    · exact closed
    · exact closed.trans (place_linkKept _ _ _)
  · exact LinkKept.refl s

theorem sinkLinkLeft_linkKept : LinkKept s (sinkLinkLeft s i) := by
  unfold sinkLinkLeft
  split
  · split
    · exact (modSink_linkKept _).trans (withdrawApply_linkKept i)
    · exact (modSink_linkKept _).trans (withdrawApply_linkKept i)
    · exact LinkKept.refl s
  · exact LinkKept.refl s

theorem ackExpired_linkKept (c : SinkCtx) : LinkKept s (ackExpired i c s) := by
  unfold ackExpired
  dsimp only
  split
  · exact (modSink_linkKept _).trans (flagAck_linkKept _ _)
  · exact modSink_linkKept _

theorem closeSink_linkKept (c : SinkCtx) : LinkKept s (closeSink i c s).1 := by
  unfold closeSink
  split
  · exact LinkKept.refl s
  · exact (closeSinkCtx_linkKept _).trans (place_linkKept _ _ _)

theorem promote_linkKept (c : SinkCtx) : LinkKept s (promote i c s) := by
  unfold promote
  dsimp only
  generalize hw : withdrawApply i (setAckFlag (s.streamOf i) none s) = t
  have withdrawn : LinkKept s t := hw ▸ (setAckFlag_none_linkKept _).trans (withdrawApply_linkKept i)
  have role : ∀ e, LinkKept t (t.setEntry i e) := fun e => LinkKept.of_eq rfl rfl rfl rfl
  exact ((withdrawn.trans (role _)).trans (place_linkKept _ _ _)).trans (noticeWin_linkKept i)

theorem clampAck_linkKept : LinkKept s (clampAck s i) := by
  unfold clampAck
  split
  · split
    · dsimp only
      split
      · exact (modSink_linkKept _).trans (flagAck_linkKept _ _)
      · exact modSink_linkKept _
    · exact LinkKept.refl s
  · exact LinkKept.refl s

/-! ### The source side -/

theorem faultStream_linkKept (r : FaultReason) : LinkKept s (faultStream i r s) :=
  (faultStream_sourceLocal r).toStreamLocal.linkKept_of_sched fun _ => faultStream_sched r

theorem enterClosed_linkKept : LinkKept s (enterClosed i s) :=
  enterClosed_sourceLocal.toStreamLocal.linkKept_of_sched fun _ => enterClosed_sched

theorem enterClosing_linkKept : LinkKept s (enterClosing i s) :=
  enterClosing_sourceLocal.toStreamLocal.linkKept_of_sched enterClosing_sched_of_not_up

theorem reseed_linkKept : LinkKept s (reseed i s) :=
  reseed_sourceLocal.toStreamLocal.linkKept_of_sched reseed_sched_of_not_up

theorem openOrPend_linkKept (r : OpenReason) : LinkKept s (openOrPend i r s) :=
  (openOrPend_sourceLocal r).toStreamLocal.linkKept_of_sched fun h => openOrPend_sched_of_not_up h r

theorem placeControl_linkKept (c : SourceCtx) : LinkKept s (placeControl i c s) := by
  unfold placeControl
  split
  · exact place_linkKept _ _ _
  · exact place_linkKept _ _ _
  · exact place_linkKept _ _ _
  · exact LinkKept.refl s

theorem ctlAgain_linkKept (c : SourceCtx) {f : State → State} (h : LinkKept s (f s)) :
    LinkKept s (ctlAgain i c f s) := by
  unfold ctlAgain
  split
  · exact (modSource_linkKept _).trans (placeControl_linkKept c)
  · exact h

theorem ctlExpired_linkKept (c : SourceCtx) : LinkKept s (ctlExpired i c s) := by
  unfold ctlExpired
  split
  · exact ctlAgain_linkKept c (faultStream_linkKept _)
  · exact ctlAgain_linkKept c (faultStream_linkKept _)
  · exact ctlAgain_linkKept c enterClosed_linkKept
  · exact modSource_linkKept _

theorem retxExpired_linkKept (c : SourceCtx) : LinkKept s (retxExpired i c s) := by
  unfold retxExpired
  split
  · split
    · exact modSource_linkKept _
    · exact faultStream_linkKept _
  · split
    · exact modSource_linkKept _
    · exact faultStream_linkKept _
  · exact modSource_linkKept _

/-- A frame taken by a source context finds the link in the state it leaves it in, and so does one taken by a sink. In UP
that is all `linkValid` asks of it. -/
theorem Kept.linkKept_of_up {t : State} (h : Kept s t) (hl : t.link = { s.link with counters := t.link.counters })
    (hu : s.link.state = .up) : LinkKept s t :=
  ⟨hl, by rw [h.settings], h.resetLow, fun hn => absurd hu hn⟩

end Sys2Proof.Machine
end

section
/-! SUPPORT. What a frame at a source or sink stream can touch: the last of the `SourceLocal` and `SinkLocal` lemmas, up to the
dispatch of a frame by the lookup (R94). -/

namespace Sys2Proof.Machine

variable {s : State} {i : WinIdx}

theorem takePromoted_sourceLocal (c : SourceCtx) (l : Seq) (h : (s.source? i).isSome = true) :
    SourceLocal i s (takePromoted i c l s) := by
  have last : ∀ t, SourceLocal i s t → (t.source? i).isSome = true →
      SourceLocal i s (yieldIfOn i (faultStream i .peerPromoted t)) := fun t k ht =>
    (k.trans (faultStream_sourceLocal _)).trans (yieldIfOn_sourceLocal (faultStream_isSome ht _))
  unfold takePromoted
  dsimp only
  split
  · refine last _ ((freeBefore_sourceLocal _).trans (modSource_sourceLocal _)) ?_
    rw [modSource_isSome, freeBefore_isSome]
    exact h
  · exact last _ (SourceLocal.refl i s) h

theorem acceptSeed_sourceLocal (f : SourceCtx → SourceCtx) : SourceLocal i s (joinSeedQueue i (s.modSource i f)) :=
  (modSource_sourceLocal f).trans (joinSeedQueue_sourceLocal i)

theorem closeYield_sourceLocal (h : (s.source? i).isSome = true) : SourceLocal i s (yieldIfOn i (enterClosed i s)) :=
  enterClosed_sourceLocal.trans (yieldIfOn_sourceLocal (enterClosed_isSome h))

/-- A frame of the context's epoch touches its stream alone, whatever the state of the context (R102). -/
theorem takeAtSource_sourceLocal (c : SourceCtx) (b : Body) (h : (s.source? i).isSome = true) :
    SourceLocal i s (takeAtSource i c b s) := by
  unfold takeAtSource
  generalize c.state = st
  cases st <;> cases b <;> dsimp only <;> with_reducible first
    | exact countStale_sourceLocal
    | exact faultStream_sourceLocal _
    | exact takeAck_sourceLocal c _
    | exact takeNak_sourceLocal c _
    | exact takePromoted_sourceLocal c _ h
    | exact enterClosed_sourceLocal
    | exact acceptSeed_sourceLocal _
    | exact takeReopenReply_sourceLocal c _ _
    | exact closeYield_sourceLocal h

theorem sourceFrame_sourceLocal (epoch : Epoch) (b : Body) : SourceLocal i s (sourceFrame i epoch b s) := by
  unfold sourceFrame
  split
  · rename_i c h
    split
    · exact takeAtSource_sourceLocal c b (by simp [h])
    · exact countStale_sourceLocal
  · exact countStale_sourceLocal

/-- The lookup that finds a source context (R94). -/
theorem findsSource_some {id : StreamId} (h : s.findsSource id = some i) :
    s.lookup id = some i ∧ ∃ c, s.source? i = some c := by
  simp only [State.findsSource, Option.bind_eq_some_iff, Option.map_eq_some_iff] at h
  obtain ⟨k, hk, c, hc, rfl⟩ := h
  exact ⟨hk, c, hc⟩

theorem findsSource_of_lookup {id : StreamId} {c : SourceCtx} (h : s.lookup id = some i) (hc : s.source? i = some c) :
    s.findsSource id = some i := by
  simp [State.findsSource, h, hc]

end Sys2Proof.Machine
end

section
/-! SUPPORT. The invariant of the link: `linkShaped` is what of `linkValid` survives while LINK_ENABLE or lane ready is being
changed; leaving for DOWN keeps it, and from there `tryTrain` restores `linkValid` (R82, R88, R89). -/

namespace Sys2Proof.Machine

/-! ### The shape of the link -/

/-- The part of `linkValid` that does not speak of LINK_ENABLE, lane ready and RESET_N, nor of the timers of UP. -/
def State.linkShaped (s : State) : Bool :=
  let l := s.link
  match l.state with
  | .down => l.helloTimer.isNone && l.silenceTimer.isNone && l.keepaliveTimer.isNone && !l.helloDue && !l.keepaliveDue
      && s.sched.allEmpty
  | .training => l.silenceTimer.isNone && l.keepaliveTimer.isNone && !l.keepaliveDue && s.sched.allEmpty
  | .up => l.helloTimer.isNone && !l.helloDue

theorem linkShaped_of_linkValid {s : State} (h : s.linkValid = true) : s.linkShaped = true := by
  unfold State.linkValid at h
  unfold State.linkShaped
  cases hs : s.link.state <;> simp_all

/-- An enabled link with lane ready is not held in reset. -/
theorem resetLow_of_linkValid {s : State} (h : s.linkValid = true) (he : s.settings.linkEnable = true)
    (hr : s.link.laneReady = true) : s.resetLow = false := by
  unfold State.linkValid at h
  cases hs : s.link.state <;> simp_all

/-- RESET_N stands, and a valid link stays valid. -/
structure LinkOk (s t : State) : Prop where
  resetLow : t.resetLow = s.resetLow
  valid : s.linkValid = true → t.linkValid = true

theorem LinkOk.refl (s : State) : LinkOk s s := ⟨rfl, id⟩

theorem LinkOk.trans {s t u : State} (h : LinkOk s t) (k : LinkOk t u) : LinkOk s u :=
  ⟨k.resetLow.trans h.resetLow, fun v => k.valid (h.valid v)⟩

theorem LinkKept.ok {s t : State} (h : LinkKept s t) : LinkOk s t := ⟨h.resetLow, h.linkValid⟩

theorem LinkKept.foldl {f : State → WinIdx → State} (h : ∀ s i, LinkKept s (f s i)) (l : List WinIdx) (s : State) :
    LinkKept s (l.foldl f s) := by
  induction l generalizing s with
  | nil => exact LinkKept.refl s
  | cons i l ih => exact (h s i).trans (ih _)

theorem LinkOk.foldl {f : State → WinIdx → State} (h : ∀ s i, LinkOk s (f s i)) (l : List WinIdx) (s : State) :
    LinkOk s (l.foldl f s) := by
  induction l generalizing s with
  | nil => exact LinkOk.refl s
  | cons i l ih => exact (h s i).trans (ih _)

theorem LinkKept.linkShaped {s t : State} (h : LinkKept s t) (hv : s.linkShaped = true) : t.linkShaped = true := by
  obtain ⟨hl, _, _, hq⟩ := h
  unfold State.linkShaped at hv ⊢
  rw [hl]
  cases hs : s.link.state <;> simp only [hs, Bool.and_eq_true] at hv hq ⊢
  · exact ⟨hv.1, hq (by simp) hv.2⟩
  · exact ⟨hv.1, hq (by simp) hv.2⟩
  · exact hv

/-! ### The link's transitions -/

variable {s : State}

theorem sourceLinkLeft_linkKept (i : WinIdx) : LinkKept s (sourceLinkLeft s i) :=
  sourceLinkLeft_sourceLocal.toStreamLocal.linkKept_of_sched fun _ => sourceLinkLeft_sched

theorem clearSched_allEmpty : (clearSched s).sched.allEmpty = true := by
  simp [clearSched, Sched.allEmpty]

/-- What the streams do when the link has left UP. -/
theorem streamsLinkLeft_linkKept (u : State) :
    LinkKept u (allWindows.foldl sinkLinkLeft (allWindows.foldl sourceLinkLeft u)) :=
  (LinkKept.foldl (fun _ i => sourceLinkLeft_linkKept i) _ _).trans
    (LinkKept.foldl (fun _ _ => sinkLinkLeft_linkKept) _ _)

/-- The link as it leaves UP (R88). -/
def Link.left (l : Link) : Link :=
  { l with state := .down, silenceTimer := none, keepaliveTimer := none, keepaliveDue := false }

/-- Leaving UP: the link goes to DOWN with nothing running and nothing to send, and then the streams act (R88). -/
theorem leaveUp_linkKept : LinkKept (clearSched (modLink Link.left s)) (leaveUp s) :=
  streamsLinkLeft_linkKept _

theorem leaveUp_link : (leaveUp s).link = { s.link.left with counters := (leaveUp s).link.counters } := by
  have k := leaveUp_linkKept (s := s)
  generalize leaveUp s = t at k ⊢
  exact k.link

theorem leaveUp_allEmpty : (leaveUp s).sched.allEmpty = true :=
  leaveUp_linkKept.empty (by simp [clearSched, Link.left]) clearSched_allEmpty

/-- From whatever state, the link goes to DOWN with its shape (R88, R89). -/
theorem goDown_spec (h : s.linkShaped = true) :
    (goDown s).link.state = .down ∧ (goDown s).linkShaped = true ∧ (goDown s).link.laneReady = s.link.laneReady
      ∧ (goDown s).settings.linkEnable = s.settings.linkEnable ∧ (goDown s).resetLow = s.resetLow := by
  unfold State.linkShaped at h
  unfold goDown
  cases hs : s.link.state with
  | down => simp only [hs] at h; simp [State.linkShaped, hs, h]
  | training =>
      simp only [hs, Bool.and_eq_true] at h
      simp_all [leaveTraining, State.linkShaped, modLink]
  | up =>
      simp only [hs, Bool.and_eq_true] at h
      have hk := leaveUp_kept (s := s)
      have hq := leaveUp_allEmpty (s := s)
      have hl := leaveUp_link (s := s)
      dsimp only
      generalize leaveUp s = t at hk hq hl ⊢
      refine ⟨by rw [hl]; rfl, ?_, by rw [hl]; rfl, by rw [hk.settings], hk.resetLow⟩
      unfold State.linkShaped
      rw [hl]
      simp_all [Link.left]

/-- From DOWN, an enabled and ready link goes on to TRAINING; the result is valid (R82). -/
theorem tryTrain_linkValid (hd : s.link.state = .down) (h : s.linkShaped = true)
    (hr : s.settings.linkEnable = true → s.link.laneReady = true → s.resetLow = false) :
    (tryTrain s).linkValid = true := by
  simp only [State.linkShaped, hd, Bool.and_eq_true] at h
  unfold tryTrain
  split
  · rename_i hc
    obtain ⟨_, he, hl⟩ := hc
    have := hr he hl
    simp_all [enterTraining, modLink, State.linkValid]
  · rename_i hc
    simp only [hd, true_and, not_and, Bool.not_eq_true] at hc
    cases he : s.settings.linkEnable <;> simp_all [State.linkValid]

theorem dropLink_ok : LinkOk s (dropLink s) := by
  refine ⟨dropLink_kept.resetLow, fun h => ?_⟩
  obtain ⟨hd, hs, hl, he, hr⟩ := goDown_spec (linkShaped_of_linkValid h)
  refine tryTrain_linkValid hd hs fun a b => ?_
  rw [hr]
  exact resetLow_of_linkValid h (he ▸ a) (hl ▸ b)

/-- The link goes to DOWN and rests there where it is not enabled or not ready (R89). -/
theorem goDown_linkValid (h : s.linkShaped = true) (hn : (s.settings.linkEnable && s.link.laneReady) = false) :
    (goDown s).linkValid = true := by
  obtain ⟨hd, hs, hl, he, _⟩ := goDown_spec h
  have stays : tryTrain (goDown s) = goDown s := by
    rw [tryTrain, if_neg]
    rintro ⟨_, a, b⟩
    rw [he] at a
    rw [hl] at b
    simp [a, b] at hn
  rw [← stays]
  refine tryTrain_linkValid hd hs fun a b => ?_
  rw [he] at a
  rw [hl] at b
  simp [a, b] at hn

theorem laneRise_ok : LinkOk s (laneRise s) := by
  unfold laneRise
  split
  · exact LinkOk.refl s
  · rename_i hr
    have low : s.resetLow = false := by simpa using hr
    refine ⟨tryTrain_kept.resetLow, fun h => ?_⟩
    by_cases hd : s.link.state = .down
    · refine tryTrain_linkValid hd ?_ fun _ _ => low
      have shaped := linkShaped_of_linkValid h
      unfold State.linkShaped at shaped ⊢
      exact shaped
    · simp only [tryTrain, modLink_link, hd, false_and, if_false]
      unfold State.linkValid at h ⊢
      cases hs : s.link.state <;> simp_all [modLink]

theorem laneFall_ok : LinkOk s (laneFall s) := by
  refine ⟨goDown_kept.resetLow, fun h => ?_⟩
  have shaped := linkShaped_of_linkValid h
  refine goDown_linkValid ?_ (by simp)
  unfold State.linkShaped at shaped ⊢
  exact shaped

theorem sourceLinkUp_link (i : WinIdx) : (sourceLinkUp s i).link = { s.link with
    counters := (sourceLinkUp s i).link.counters } :=
  sourceLinkUp_sourceLocal.link

/-- What the streams do when the link is UP leaves the link there. -/
theorem sourcesLinkUp_linkKept (l : List WinIdx) (u : State) (hu : u.link.state = .up) :
    LinkKept u (l.foldl sourceLinkUp u) := by
  induction l generalizing u with
  | nil => exact LinkKept.refl u
  | cons i l ih =>
      have first : LinkKept u (sourceLinkUp u i) :=
        sourceLinkUp_sourceLocal.toStreamLocal.kept.linkKept_of_up (sourceLinkUp_link i) hu
      exact first.trans (ih _ (first.state.trans hu))

/-- The link as it enters UP (R85). -/
def Link.entered (l : Link) (set : Settings) : Link :=
  { l with state := .up, helloTimer := none, helloDue := false, silenceTimer := some set.silenceLimit,
           keepaliveTimer := some set.keepaliveInterval }

theorem enterUp_linkKept : LinkKept (modLink (fun l => l.entered s.settings) s) (enterUp s) := by
  have raised : LinkKept (modLink (fun l => l.entered s.settings) s)
      (raise .linkUp (modLink (fun l => l.entered s.settings) s)) := raise_linkKept _
  exact raised.trans (sourcesLinkUp_linkKept _ _ rfl)

theorem enterUp_state : (enterUp s).link.state = .up := by
  rw [enterUp_linkKept.state]; rfl

theorem enterUp_linkValid (he : s.settings.linkEnable = true) (hl : s.link.laneReady = true) (hr : s.resetLow = false) :
    (enterUp s).linkValid = true := by
  refine enterUp_linkKept.linkValid ?_
  simp [State.linkValid, modLink, Link.entered, he, hl, hr]

/-- Out of TRAINING into UP (R84, R85). -/
theorem enterUp_ok (h : s.link.state = .training) : LinkOk s (enterUp s) := by
  refine ⟨enterUp_kept.resetLow, fun hv => ?_⟩
  simp only [State.linkValid, h, Bool.and_eq_true, Bool.not_eq_true'] at hv
  exact enterUp_linkValid hv.1.1.1.1.1.1.1 hv.1.1.1.1.1.1.2 hv.1.1.1.1.1.2

/-! ### Received frames -/

theorem modCounters_linkKept (f : LinkCounters → LinkCounters) : LinkKept s (modCounters f s) :=
  ⟨rfl, rfl, rfl, fun _ => id⟩

theorem heard_ok : LinkOk s (modLink (fun l => { l with heard := true }) s) :=
  ⟨rfl, fun h => h⟩

theorem helloInTraining_ok (h : s.link.state = .training) (v : Byte) (heard : Bool) :
    LinkOk s (helloInTraining v heard s) := by
  unfold helloInTraining
  split
  · exact (modCounters_linkKept _).ok
  · dsimp only
    split
    · exact heard_ok.trans (enterUp_ok h)
    · split
      · refine heard_ok.trans ⟨rfl, fun hv => ?_⟩
        simp only [State.linkValid, modLink, h] at hv ⊢
        exact hv
      · exact heard_ok

theorem restartSilence_ok (h : s.link.state = .up) : LinkOk s (restartSilence s) := by
  refine ⟨rfl, fun hv => ?_⟩
  simp only [State.linkValid, restartSilence, modLink, h, Bool.and_eq_true] at hv ⊢
  exact ⟨⟨hv.1.1, rfl⟩, hv.2⟩

theorem helloInUp_ok (h : s.link.state = .up) (v : Byte) (heard : Bool) : LinkOk s (helloInUp v heard s) := by
  unfold helloInUp
  split
  · exact (modCounters_linkKept _).ok
  · split
    · exact (restartSilence_ok h).trans heard_ok
    · exact dropLink_ok

theorem openAtSink_linkKept (id : StreamId) (epoch : Epoch) (length : Word) :
    LinkKept s (openAtSink id epoch length s) := by
  unfold openAtSink
  split
  · exact place_linkKept _ _ _
  · split
    · exact place_linkKept _ _ _
    · split
      · exact place_linkKept _ _ _
      · split
        · exact place_linkKept _ _ _
        · unfold newPairing
          exact (((modSink_linkKept _).trans (setAckFlag_none_linkKept _)).trans (withdrawApply_linkKept _)).trans
            (place_linkKept _ _ _)

theorem reopenAtSink_linkKept (id : StreamId) (epoch : Epoch) (o n : Seq) :
    LinkKept s (reopenAtSink id epoch o n s) := by
  unfold reopenAtSink
  split
  · exact place_linkKept _ _ _
  · split
    · split
      · unfold giveContinue
        exact (((place_linkKept _ _ _).trans (modSink_linkKept _)).trans (setAckFlag_none_linkKept _)).trans
          (withdrawApply_linkKept _)
      · exact place_linkKept _ _ _
    · exact place_linkKept _ _ _

theorem closeAtSink_linkKept (id : StreamId) (epoch : Epoch) : LinkKept s (closeAtSink id epoch s) := by
  unfold closeAtSink
  split
  · split
    · exact (((closeSinkCtx_linkKept .peer).trans (noticeWin_linkKept _)).trans (raise_linkKept _)).trans
        (place_linkKept _ _ _)
    · exact place_linkKept _ _ _
  · exact place_linkKept _ _ _

theorem recordAtSink_linkKept (h : s.link.state = .up) (id : StreamId) (epoch : Epoch) (r : RecBody) :
    LinkKept s (recordAtSink id epoch r s) := by
  unfold recordAtSink
  split
  · exact place_linkKept _ _ _
  · split
    · split
      · exact place_linkKept _ _ _
      · rename_i i c _ _
        have k := recordAtCtx_sinkLocal (i := i) (s := s) c epoch r
        exact k.toStreamLocal.kept.linkKept_of_up k.link h
    · exact place_linkKept _ _ _

theorem sourceFrame_linkKept (h : s.link.state = .up) (i : WinIdx) (epoch : Epoch) (b : Body) :
    LinkKept s (sourceFrame i epoch b s) :=
  have k := sourceFrame_sourceLocal (i := i) (s := s) epoch b
  k.toStreamLocal.kept.linkKept_of_up k.link h

theorem dispatch_linkKept (h : s.link.state = .up) (id : StreamId) (epoch : Epoch) (b : Body) :
    LinkKept s (dispatch id epoch b s) := by
  unfold dispatch
  split
  · exact openAtSink_linkKept _ _ _
  · exact reopenAtSink_linkKept _ _ _ _
  · exact recordAtSink_linkKept h _ _ _
  · split
    · exact sourceFrame_linkKept h _ _ _
    · exact closeAtSink_linkKept _ _
  all_goals
    split
    · exact sourceFrame_linkKept h _ _ _
    · exact countStale_linkKept

theorem dispatchFrame_linkKept (h : s.link.state = .up) (f : Frame) : LinkKept s (dispatchFrame f s) := by
  unfold dispatchFrame
  split
  · exact LinkKept.refl s
  · exact LinkKept.refl s
  · exact dispatch_linkKept h _ _ _

theorem validFrame_ok (f : Frame) : LinkOk s (validFrame f s) := by
  unfold validFrame
  dsimp only
  have counted := (modCounters_linkKept (s := s) fun c => { c with framesReceived := c.framesReceived + 1#32 })
  generalize modCounters (fun c => { c with framesReceived := c.framesReceived + 1#32 }) s = u at counted ⊢
  split
  · exact counted.ok
  · rename_i h; exact counted.ok.trans (helloInTraining_ok h _ _)
  · rename_i h _
    exact (counted.ok.trans (enterUp_ok h)).trans (dispatchFrame_linkKept enterUp_state _).ok
  · rename_i h; exact counted.ok.trans (helloInUp_ok h _ _)
  · rename_i h _
    exact (counted.ok.trans (restartSilence_ok h)).trans (dispatchFrame_linkKept (s := restartSilence u) h _).ok

theorem crcErrorFrame_ok : LinkOk s (crcErrorFrame s) := ((modCounters_linkKept _).trans (raise_linkKept _)).ok

theorem formatErrorFrame_ok : LinkOk s (formatErrorFrame s) := ((modCounters_linkKept _).trans (raise_linkKept _)).ok

theorem deliver_ok (f : Frame) : LinkOk s (deliver f s) := by
  unfold deliver
  split
  · exact validFrame_ok f
  · exact formatErrorFrame_ok

theorem deliverBytes_ok (bs : List Byte) : LinkOk s (deliverBytes bs s) := by
  unfold deliverBytes
  split
  · exact crcErrorFrame_ok
  · exact formatErrorFrame_ok
  · exact validFrame_ok _

theorem whenReceiving_ok {f : State → State} (h : ∀ s, LinkOk s (f s)) : LinkOk s (whenReceiving f s) := by
  unfold whenReceiving
  split
  · exact LinkOk.refl s
  · exact h s

end Sys2Proof.Machine
end

section
/-! SUPPORT. Every kind of command keeps the link valid (R81 to R89): the memory path and the end of an event leave the link
alone, transmissions and timers move due frames and timers as the rules say, management only what is enabled. -/

namespace Sys2Proof.Machine

variable {s : State}

/-! ### The memory path and the end of an event -/

theorem reserveWrite_linkKept (a : Access) (i : WinIdx) (c : SourceCtx) : LinkKept s (reserveWrite a i c s) := by
  have request : ∀ t r, LinkKept t (requestPort a r t) := fun _ _ => LinkKept.of_eq rfl rfl rfl rfl
  unfold reserveWrite
  split
  · exact request _ _
  · split
    · split
      · exact LinkKept.of_eq rfl rfl rfl rfl
      · exact reseed_linkKept.trans (request _ _)
    · exact request _ _

theorem accept_linkKept (a : Access) : LinkKept s (accept a s) := by
  have same : ∀ t : State, t.link = s.link → t.settings = s.settings → t.resetLow = s.resetLow →
      t.sched = s.sched → LinkKept s t := fun _ => LinkKept.of_eq
  unfold accept
  split
  · exact same _ rfl rfl rfl rfl
  · split
    · exact same _ rfl rfl rfl rfl
    · split
      · exact same _ rfl rfl rfl rfl
      · split
        · exact same _ rfl rfl rfl rfl
        · split <;> exact same _ rfl rfl rfl rfl
      · split
        · exact reserveWrite_linkKept _ _ _
        · exact same _ rfl rfl rfl rfl

theorem takePresented_linkKept : LinkKept s (takePresented s) := by
  unfold takePresented
  split
  · exact LinkKept.trans (t := { s with bus := { s.bus with presented := none } })
      (LinkKept.of_eq rfl rfl rfl rfl) (accept_linkKept _)
  · exact LinkKept.refl s

theorem finish_linkKept : LinkKept s (finish s) := by
  unfold finish
  split
  · exact LinkKept.refl s
  · have engines : ∀ t, LinkKept t (judgeIfOver (keepOffers (applyChoose (seedTake t)))) := fun t => by
      rw [judgeIfOver_frame, keepOffers_frame, applyChoose_frame, seedTake_frame]
      exact LinkKept.of_eq rfl rfl rfl rfl
    exact takePresented_linkKept.trans (engines _)

theorem offerHeld_linkKept : LinkKept s (offerHeld s) := by
  unfold offerHeld
  dsimp only
  split
  · split <;> exact LinkKept.of_eq rfl rfl rfl rfl
  · exact LinkKept.of_eq rfl rfl rfl rfl

theorem putSeedEnd_linkKept (i : WinIdx) : LinkKept s (putSeedEnd i s) :=
  (modSource_linkKept _).trans (LinkKept.of_eq rfl rfl rfl rfl)

theorem trySeedEnd_linkKept (i : WinIdx) : LinkKept s (trySeedEnd i s) := by
  unfold trySeedEnd
  split
  · exact putSeedEnd_linkKept i
  · exact LinkKept.of_eq rfl rfl rfl rfl

theorem tryChunk_linkKept (i : WinIdx) : LinkKept s (tryChunk i s) := by
  unfold tryChunk
  split
  · dsimp only; split <;> exact LinkKept.of_eq rfl rfl rfl rfl
  · exact LinkKept.of_eq rfl rfl rfl rfl

theorem offerSeed_linkKept : LinkKept s (offerSeed s) := by
  have cleared : LinkKept s { s with offers := { s.offers with seed := false } } := LinkKept.of_eq rfl rfl rfl rfl
  unfold offerSeed
  dsimp only
  split
  · split
    · exact cleared.trans (trySeedEnd_linkKept _)
    · exact cleared.trans (tryChunk_linkKept _)
  · exact cleared

theorem setRole_linkKept (i : WinIdx) (r : Role) : LinkKept s (s.setRole i r) := LinkKept.of_eq rfl rfl rfl rfl

theorem returnResv_linkKept : LinkKept s (returnResv s) := by
  unfold returnResv; split <;> exact LinkKept.of_eq rfl rfl rfl rfl

theorem grantWrite_linkKept (a : Access) (i : WinIdx) (c : SourceCtx) : LinkKept s (grantWrite a i c s) := by
  have begins : ∀ j t, LinkKept t (beginAccess a j t) := fun _ _ => LinkKept.of_eq rfl rfl rfl rfl
  have journal : LinkKept s (journalWrite a i c s) := by
    unfold journalWrite
    dsimp only
    split
    · exact (setRole_linkKept i _).trans returnResv_linkKept
    · exact LinkKept.of_eq rfl rfl rfl rfl
  unfold grantWrite
  split
  · exact journal.trans (begins _ _)
  · exact returnResv_linkKept.trans (begins _ _)

theorem grantAccess_linkKept : LinkKept s (grantAccess s) := by
  have rotated : LinkKept s (rotate .access s) := LinkKept.of_eq rfl rfl rfl rfl
  have returned := rotated.trans returnResv_linkKept
  have begins : ∀ a j t, LinkKept t (beginAccess a j t) := fun _ _ _ => LinkKept.of_eq rfl rfl rfl rfl
  unfold grantAccess
  split
  · dsimp only
    split
    · exact returned.trans (begins _ _ _)
    · split
      · exact returned.trans (begins _ _ _)
      · split
        · exact returned.trans (LinkKept.of_eq rfl rfl rfl rfl)
        · split
          · exact returned.trans (LinkKept.of_eq rfl rfl rfl rfl)
          · exact returned.trans (begins _ _ _)
      · split
        · exact rotated.trans (grantWrite_linkKept _ _ _)
        · exact returned.trans (begins _ _ _)
  · exact LinkKept.refl s

theorem cursorAdvanced_linkKept : LinkKept s (cursorAdvanced s) := by
  unfold cursorAdvanced
  repeat' split
  all_goals with_reducible first | exact reserveWrite_linkKept _ _ _ | exact LinkKept.refl s

theorem grantSeed_linkKept : LinkKept s (grantSeed s) := by
  have seed : ∀ e : SeedEngine, LinkKept s { s with seed := e } := fun _ => LinkKept.of_eq rfl rfl rfl rfl
  unfold grantSeed
  split
  · split
    · refine LinkKept.trans ?_ cursorAdvanced_linkKept
      exact LinkKept.of_eq rfl rfl rfl rfl
    · exact seed _
  · exact seed _

theorem grantApply_linkKept : LinkKept s (grantApply s) := by
  unfold grantApply
  split
  · rename_i v _ _
    have held : LinkKept s ((rotate .apply s).modSink v.win fun c => { c with held := markUnderOp v.recs c.held }) :=
      LinkKept.trans (t := rotate .apply s) (LinkKept.of_eq rfl rfl rfl rfl) (modSink_linkKept _)
    exact held.trans (LinkKept.of_eq rfl rfl rfl rfl)
  · exact LinkKept.of_eq rfl rfl rfl rfl

theorem grant_linkKept (r : Requester) : LinkKept s (grant r s) := by
  cases r
  · exact grantAccess_linkKept
  · exact grantSeed_linkKept
  · exact grantApply_linkKept

/-! ### Answers -/

theorem journaledError_linkKept (j : Journaled) : LinkKept s (journaledError j s) := by
  unfold journaledError
  split
  · split
    · exact faultStream_linkKept _
    · exact LinkKept.refl s
  · exact LinkKept.refl s

theorem freePort_linkKept : LinkKept s (freePort s) := LinkKept.of_eq rfl rfl rfl rfl

theorem respond_linkKept (ok : Bool) (d : List Byte) : LinkKept s (respond ok d s) := LinkKept.of_eq rfl rfl rfl rfl

theorem answerAccess_linkKept (ok : Bool) (d : BitVec 512) : LinkKept s (answerAccess ok d s) := by
  have raised := (freePort_linkKept (s := s)).trans (raise_linkKept .memoryError)
  unfold answerAccess
  split
  · split
    · dsimp only
      split
      · exact freePort_linkKept.trans (respond_linkKept _ _)
      · split
        · exact (raised.trans (journaledError_linkKept _)).trans (respond_linkKept _ _)
        · exact raised.trans (respond_linkKept _ _)
    · exact LinkKept.refl s
  · exact LinkKept.refl s

theorem seedField_linkKept (e : SeedEngine) : LinkKept s { s with seed := e } := LinkKept.of_eq rfl rfl rfl rfl

theorem nextChunk_linkKept (i : WinIdx) : LinkKept s (nextChunk i s) := by
  unfold nextChunk
  split
  · exact LinkKept.of_eq rfl rfl rfl rfl
  · rw [beginChunk_frame]; exact LinkKept.of_eq rfl rfl rfl rfl

theorem chunkFilled_linkKept (f : Flight) (d : BitVec 512) : LinkKept s (chunkFilled f d s) := by
  have filled := modSource_linkKept (i := f.win) (s := s) fun c => { c with queue := fillRecords f.first d c.queue }
  unfold chunkFilled
  dsimp only
  split
  · exact filled.trans (seedField_linkKept _)
  · split
    · split
      · exact filled.trans (putSeedEnd_linkKept _)
      · exact filled.trans (trySeedEnd_linkKept _)
    · split
      · exact filled.trans ((seedField_linkKept _).trans (nextChunk_linkKept _))
      · exact filled.trans (seedField_linkKept _)

theorem answerSeed_linkKept (ok : Bool) (d : BitVec 512) : LinkKept s (answerSeed ok d s) := by
  have answered : ∀ f t, LinkKept t (seedAnswered f ok d t) := by
    intro f t
    unfold seedAnswered
    split
    · split
      · exact seedField_linkKept _
      · exact chunkFilled_linkKept f d
    · dsimp only
      split
      · exact (raise_linkKept _).trans (seedField_linkKept _)
      · exact ((raise_linkKept _).trans (faultStream_linkKept _)).trans (seedField_linkKept _)
  unfold answerSeed
  split
  · split
    · exact freePort_linkKept.trans (answered _ _)
    · exact LinkKept.refl s
  · exact LinkKept.refl s

theorem applyField_linkKept (a : ApplyEngine) : LinkKept s { s with apply := a } := LinkKept.of_eq rfl rfl rfl rfl

theorem answerApply_linkKept (ok : Bool) : LinkKept s (answerApply ok s) := by
  unfold answerApply
  split
  · split
    · dsimp only
      generalize hu : (if ok = true then freePort s else raise .memoryError (freePort s)) = u
      have freed : LinkKept s u := by
        rw [← hu]
        split
        · exact freePort_linkKept
        · exact freePort_linkKept.trans (raise_linkKept _)
      have dropped := freed.trans (applyField_linkKept (s := u) u.apply.drop)
      split
      · split
        · exact dropped.trans (completeApply_linkKept _)
        · exact dropped.trans applyErrorClose_linkKept
      · exact dropped
    · exact LinkKept.refl s
  · exact LinkKept.refl s

/-! ### Transmissions -/

/-- A frame begins in a link that is valid, or would be but for the keepalive timer that its beginning restarts (R87). -/
theorem startFrame_linkValid (f : Frame) (h : s.linkValid = true ∨
    (modLink (fun l => { l with keepaliveDue := true }) s).linkValid = true ∧ s.link.state = .up) :
    (startFrame f s).linkValid = true := by
  unfold startFrame
  dsimp only
  split
  · rename_i hu
    have up : s.link.state = .up := hu
    rcases h with h | ⟨h, _⟩
    all_goals
      simp only [State.linkValid, modLink, modCounters, up, Bool.and_eq_true] at h ⊢
      exact ⟨h.1, rfl⟩
  · rename_i hn
    rcases h with h | ⟨_, hu⟩
    · exact h
    · exact absurd hu hn

/-- A slot emptied (R97). -/
theorem setCtlSlot_none_linkKept (id : StreamId) : LinkKept s (setCtlSlot id none s) := by
  refine ⟨rfl, rfl, rfl, fun _ h => ?_⟩
  simp only [Sched.allEmpty, Bool.and_eq_true, List.all_eq_true] at h ⊢
  refine ⟨fun f hf => ?_, h.2⟩
  obtain ⟨k, hk, rfl⟩ := List.mem_iff_getElem.mp hf
  simp only [Vector.length_toList] at hk
  simp only [setCtlSlot_sched, Vector.getElem_toList, Vector.getElem_set]
  split
  · rfl
  · exact h.1 _ (by simp)

/-- A change of the scheduler's pointers and its transmitter. -/
theorem sched_linkKept (x : Sched) (hc : x.ctl = s.sched.ctl) (ha : x.ack = s.sched.ack) :
    LinkKept s { s with sched := x } := by
  refine ⟨rfl, rfl, rfl, fun _ h => ?_⟩
  simpa only [Sched.allEmpty, hc, ha] using h

theorem beginFrame_ok (ch : Choice) : LinkOk s (beginFrame ch s) := by
  refine ⟨(beginFrame_kept ch).resetLow, fun h => ?_⟩
  have start : ∀ f t, LinkKept s t → (startFrame f t).linkValid = true := fun f t k =>
    startFrame_linkValid f (.inl (k.linkValid h))
  cases ch with
  | hello =>
      refine startFrame_linkValid _ (.inl ?_)
      unfold State.linkValid at h ⊢
      cases hs : s.link.state <;> simp_all [modLink]
  | keepalive =>
      refine startFrame_linkValid _ ?_
      by_cases hu : s.link.state = .up
      · refine .inr ⟨?_, hu⟩
        simp only [State.linkValid, modLink, hu, Bool.and_eq_true] at h ⊢
        exact ⟨h.1, by simp⟩
      · refine .inl ?_
        unfold State.linkValid at h ⊢
        cases hs : s.link.state <;> simp_all [modLink]
  | control id =>
      simp only [beginFrame]
      split
      · exact start _ _ (LinkKept.trans (sched_linkKept { s.sched with lastCtl := id } rfl rfl)
          (setCtlSlot_none_linkKept id))
      · exact h
  | ack id =>
      simp only [beginFrame]
      split
      · rename_i f _
        have emptied : LinkKept s (setAckFlag id none { s with sched := { s.sched with lastAck := id } }) :=
          (sched_linkKept { s.sched with lastAck := id } rfl rfl).trans (setAckFlag_none_linkKept id)
        refine start _ _ (emptied.trans ?_)
        unfold reportAck
        split
        · exact modSink_linkKept _
        · exact LinkKept.refl _
      · exact h
  | record id =>
      simp only [beginFrame]
      split
      · exact start _ _ ((setRole_linkKept _ _).trans (sched_linkKept _ rfl rfl))
      · exact h

/-! ### The part's own steps -/

theorem stepOfferHeld_ok : LinkOk s (stepOfferHeld s) := by
  unfold stepOfferHeld
  split
  · exact (offerHeld_linkKept.trans finish_linkKept).ok
  · exact LinkOk.refl s

theorem stepOfferSeed_ok : LinkOk s (stepOfferSeed s) := by
  unfold stepOfferSeed
  dsimp only
  split
  · exact stepOfferHeld_ok.trans (offerSeed_linkKept.trans finish_linkKept).ok
  · exact stepOfferHeld_ok

theorem stepGrant_ok (r : Requester) : LinkOk s (stepGrant r s) := by
  unfold stepGrant
  dsimp only
  split
  · exact stepOfferSeed_ok.trans ((grant_linkKept r).trans finish_linkKept).ok
  · exact stepOfferSeed_ok

theorem stepTransmit_ok : LinkOk s (stepTransmit s) := by
  unfold stepTransmit
  split
  · exact (beginFrame_ok _).trans finish_linkKept.ok
  · exact LinkOk.refl s

theorem internalStep_ok {t : State} (h : internalStep s = some t) : LinkOk s t := by
  unfold internalStep at h
  split at h
  · cases h; exact stepOfferHeld_ok
  · split at h
    · cases h; exact stepOfferSeed_ok
    · split at h
      · cases h; exact stepGrant_ok _
      · split at h
        · cases h; exact stepTransmit_ok
        · cases h

theorem settleFor_ok (n : Nat) : LinkOk s (settleFor n s) := by
  induction n generalizing s with
  | zero => exact LinkOk.refl s
  | succ n ih =>
      unfold settleFor
      split
      · rename_i h; exact (internalStep_ok h).trans ih
      · exact LinkOk.refl s

theorem settle_ok : LinkOk s (settle s) := settleFor_ok 16

theorem ownStep_ok {f : State → State} (h : OwnStep f) (s : State) : LinkOk s (f s) := by
  cases h with
  | offerHeld => exact stepOfferHeld_ok
  | offerSeed => exact stepOfferSeed_ok
  | grant r => exact stepGrant_ok r
  | transmit => exact stepTransmit_ok

/-! ### Timers and ticks -/

theorem expireHold_ok : LinkOk s (expireHold s) := by
  have request : ∀ t a, LinkKept t (requestPort a none t) := fun _ _ => LinkKept.of_eq rfl rfl rfl rfl
  unfold expireHold holdExpired
  split
  · split
    · exact (reseed_linkKept.trans (request _ _)).ok
    · exact LinkOk.refl s
  · exact LinkOk.refl s

theorem expireHello_ok : LinkOk s (expireHello s) := by
  unfold expireHello
  split
  · refine ⟨rfl, fun h => ?_⟩
    unfold State.linkValid at h ⊢
    cases hs : s.link.state <;> simp_all [modLink]
  · exact LinkOk.refl s

theorem expireSilence_ok : LinkOk s (expireSilence s) := by
  unfold expireSilence
  split
  · exact dropLink_ok
  · exact LinkOk.refl s

theorem expireKeepalive_ok : LinkOk s (expireKeepalive s) := by
  unfold expireKeepalive
  split
  · refine ⟨rfl, fun h => ?_⟩
    unfold State.linkValid at h ⊢
    cases hs : s.link.state <;> simp_all [modLink]
  · exact LinkOk.refl s

theorem expireRetx_ok (i : WinIdx) : LinkOk s (expireRetx i s) := by
  unfold expireRetx
  split
  · split
    · exact (retxExpired_linkKept _).ok
    · exact LinkOk.refl s
  · exact LinkOk.refl s

theorem expireControl_ok (i : WinIdx) : LinkOk s (expireControl i s) := by
  unfold expireControl
  split
  · split
    · exact (ctlExpired_linkKept _).ok
    · exact LinkOk.refl s
  · exact LinkOk.refl s

theorem expireAck_ok (i : WinIdx) : LinkOk s (expireAck i s) := by
  unfold expireAck
  split
  · split
    · exact (ackExpired_linkKept _).ok
    · exact LinkOk.refl s
  · exact LinkOk.refl s

theorem atStream_ok (id : StreamId) {f : WinIdx → State → State} (h : ∀ i s, LinkOk s (f i s)) :
    LinkOk s (atStream id f s) := by
  unfold atStream
  split
  · exact h _ s
  · exact LinkOk.refl s

theorem takeDue_ok (due : Bool) {f : State → State} (h : ∀ s, LinkOk s (f s)) : LinkOk s (takeDue due f s) := by
  unfold takeDue
  split
  · exact ((h s).trans finish_linkKept.ok).trans settle_ok
  · exact LinkOk.refl s

theorem takeDueAt_ok (i : WinIdx) : LinkOk s (takeDueAt s i) :=
  ((takeDue_ok _ fun _ => expireRetx_ok i).trans (takeDue_ok _ fun _ => expireControl_ok i)).trans
    (takeDue_ok _ fun _ => expireAck_ok i)

theorem takeAllDue_ok : LinkOk s (takeAllDue s) :=
  ((((takeDue_ok _ fun _ => expireHold_ok).trans (takeDue_ok _ fun _ => expireHello_ok)).trans
    (takeDue_ok _ fun _ => expireSilence_ok)).trans (takeDue_ok _ fun _ => expireKeepalive_ok)).trans
    (LinkOk.foldl (fun _ i => takeDueAt_ok i) _ _)

/-- A tick stops no timer and starts none (R172). -/
@[simp] theorem tickTimer_isSome (t : Option Nat) : (tickTimer t).isSome = t.isSome := by
  unfold tickTimer; split <;> rfl

@[simp] theorem tickTimer_isNone (t : Option Nat) : (tickTimer t).isNone = t.isNone := by
  unfold tickTimer; split <;> rfl

theorem tickWindow_linkKept (i : WinIdx) : LinkKept s (tickWindow s i) := by
  unfold tickWindow
  split
  · exact LinkKept.refl s
  · exact setRole_linkKept _ _
  · exact setRole_linkKept _ _

theorem tickTimers_ok : LinkOk s (tickTimers s) := by
  have windows : ∀ u, LinkOk s u → LinkOk s (allWindows.foldl tickWindow u) := fun u k =>
    k.trans (LinkKept.foldl (fun _ i => tickWindow_linkKept i) allWindows u).ok
  unfold tickTimers
  refine windows _ ⟨rfl, fun h => ?_⟩
  unfold State.linkValid at h ⊢
  cases hs : s.link.state <;> simp only [hs, tickTimer_isSome, tickTimer_isNone] at h ⊢ <;> exact h

theorem tickEvent_ok : LinkOk s (tickEvent s) := by
  unfold tickEvent
  split
  · exact LinkOk.refl s
  · have before : LinkOk s (takeAllDue (settle s)) := settle_ok.trans takeAllDue_ok
    have tick := before.trans tickTimers_ok
    exact tick.trans (finish_linkKept (s := tickTimers (takeAllDue (settle s)))).ok

/-! ### Outside events -/

theorem handAnswer_ok' (ans : Answer) {take : Bool → State → State} (h : ∀ ok s, LinkOk s (take ok s)) :
    LinkOk s (handAnswer ans take s) := by
  cases ans
  · exact h _ s
  · exact h _ s
  · exact LinkOk.refl s

theorem happening_ok {f : State → State} (h : Happening f) (s : State) : LinkOk s (f s) := by
  cases h with
  | present a => exact (LinkKept.of_eq rfl rfl rfl rfl : LinkKept s (present a s)).ok
  | accessAnswer ans d => exact handAnswer_ok' ans fun ok _ => (answerAccess_linkKept ok d).ok
  | seedAnswer ans d => exact handAnswer_ok' ans fun ok _ => (answerSeed_linkKept ok d).ok
  | applyAnswer ans => exact handAnswer_ok' ans fun ok _ => (answerApply_linkKept ok).ok
  | hold => exact expireHold_ok
  | laneRise => exact laneRise_ok
  | laneFall => exact laneFall_ok
  | bytes bs => exact whenReceiving_ok fun _ => deliverBytes_ok bs
  | frame f => exact whenReceiving_ok fun _ => deliver_ok f
  | hello => exact expireHello_ok
  | silence => exact expireSilence_ok
  | keepalive => exact expireKeepalive_ok
  | retx id => exact atStream_ok id fun i _ => expireRetx_ok i
  | control id => exact atStream_ok id fun i _ => expireControl_ok i
  | ack id => exact atStream_ok id fun i _ => expireAck_ok i
  | endFrame =>
      unfold endFrame
      split
      · refine LinkKept.ok (sched_linkKept _ ?_ ?_) <;> rfl
      · exact LinkOk.refl s

theorem outside_ok {f : State → State} (h : ∀ s, LinkOk s (f s)) : LinkOk s (outside f s) :=
  (settle_ok.trans (h _)).trans finish_linkKept.ok

/-! ### Management and resets -/

theorem port_ok (p : Port) : LinkOk s { s with port := p } := ⟨rfl, id⟩

/-- A setting other than LINK_ENABLE leaves LINK_ENABLE. -/
theorem put_linkEnable {k : Setting} (h : k ≠ .linkEnable) (x : Settings) (v : Nat) :
    (x.put k v).linkEnable = x.linkEnable := by
  cases k <;> first | rfl | exact absurd rfl h

theorem writeSetting_ok (hr : s.resetLow = false) (k : Setting) (v : Word) : LinkOk s (writeSetting k v s).1 := by
  unfold writeSetting
  split
  · exact LinkOk.refl s
  · split
    · exact LinkOk.refl s
    · rename_i hg
      dsimp only
      by_cases hk : k = .linkEnable
      · subst hk
        unfold settingChanged
        dsimp only
        split
        · rename_i he
          have on : decide (v.toNat = 1) = true := he
          have was : s.settings.linkEnable = false := by
            have hg' : s.settings.linkEnable.toNat ≠ v.toNat := hg
            cases hE : s.settings.linkEnable
            · rfl
            · rw [hE, of_decide_eq_true on] at hg'; exact absurd rfl hg'
          refine ⟨tryTrain_kept.resetLow, fun h => ?_⟩
          have shaped := linkShaped_of_linkValid h
          have down : s.link.state = .down := by
            unfold State.linkValid at h
            cases hs : s.link.state <;> simp_all
          refine tryTrain_linkValid down ?_ fun _ _ => hr
          unfold State.linkShaped at shaped ⊢
          exact shaped
        · rename_i he
          have off : (s.settings.put .linkEnable v.toNat).linkEnable = false := by simpa using he
          refine ⟨goDown_kept.resetLow, fun h => ?_⟩
          have shaped := linkShaped_of_linkValid h
          refine goDown_linkValid ?_ (by simp only [off, Bool.false_and])
          unfold State.linkShaped at shaped ⊢
          exact shaped
      · have put : LinkKept s { s with settings := s.settings.put k v.toNat } :=
          ⟨rfl, put_linkEnable hk _ _, rfl, fun _ => id⟩
        unfold settingChanged
        split
        · exact absurd rfl hk
        · exact (put.trans (LinkKept.foldl (fun _ _ => clampAck_linkKept) _ _)).ok
        · exact put.ok

theorem writeEntry_ok (i : WinIdx) (x : EntryItem) (v : Word) : LinkOk s (writeEntry i x v s).1 := by
  rcases writeEntry_cases (s := s) i x v with ⟨r, h, _⟩ | ⟨h, _⟩
  · rw [h]; exact LinkOk.refl s
  · rw [h]; exact (LinkKept.of_eq rfl rfl rfl rfl : LinkKept s (s.setEntry i _)).ok

theorem writeItem_ok (hr : s.resetLow = false) (item : BitVec 16) (v : Word) : LinkOk s (writeItem item v s).1 := by
  unfold writeItem
  split
  · exact LinkOk.refl s
  · exact writeSetting_ok hr _ v
  · exact writeEntry_ok _ _ v
  · exact ⟨rfl, id⟩
  · exact LinkOk.refl s

theorem streamOp_ok (op : StreamOp) (argument : Byte) (i : WinIdx) : LinkOk s (streamOp op argument i s).1 := by
  unfold streamOp
  split
  · unfold openSource
    split
    · exact (openOrPend_linkKept _).ok
    · exact LinkOk.refl s
  · unfold closeSource
    split
    case h_1 => exact LinkOk.refl s
    case h_2 | h_3 | h_4 | h_5 => exact enterClosed_linkKept.ok
    all_goals exact enterClosing_linkKept.ok
  · unfold reseedSource
    split
    case h_1 | h_2 | h_3 | h_4 | h_5 => exact reseed_linkKept.ok
    all_goals exact LinkOk.refl s
  · unfold fenceSource
    split
    · exact LinkOk.refl s
    · split
      · exact LinkOk.refl s
      · split
        · exact LinkOk.refl s
        · exact (modSource_linkKept _).ok
  · exact (closeSink_linkKept _).ok
  · unfold promoteSink
    split
    · exact LinkOk.refl s
    · split
      · exact LinkOk.refl s
      · exact (promote_linkKept _).ok
  · exact LinkOk.refl s

theorem streamCmd_ok (id op argument : Byte) : LinkOk s (streamCmd id op argument s).1 := by
  unfold streamCmd
  split
  · exact LinkOk.refl s
  · split
    · exact LinkOk.refl s
    · split
      · exact LinkOk.refl s
      · exact streamOp_ok _ _ _

theorem transact_ok {act : State → State × Result × List Byte} (h : LinkOk s (act s).1)
    (execAt resultAt n : Nat) : LinkOk s (transact execAt resultAt n act s) := by
  by_cases hn : execAt < n
  · rw [transact_executes hn]; exact h.trans (port_ok _)
  · rw [transact_early (Nat.le_of_not_lt hn)]; exact port_ok _

theorem transact_plain_ok {act : State → State × Result} (h : LinkOk s (act s).1) (execAt resultAt n : Nat) :
    LinkOk s (transact execAt resultAt n (plain act) s) :=
  transact_ok (act := plain act) h execAt resultAt n

theorem transaction_ok {f : State → State} (h : Transaction f) (hr : s.resetLow = false) : LinkOk s (f s) := by
  cases h with
  | read item n =>
      refine transact_ok ?_ 2 8 n
      change LinkOk s (readItem item s).1
      unfold readItem readEffect
      split
      · dsimp only
        split <;> exact ⟨rfl, id⟩
      · exact LinkOk.refl s
  | write item v n => exact transact_plain_ok (writeItem_ok hr item v) 6 7 n
  | stream id op argument n => exact transact_plain_ok (streamCmd_ok id op argument) 3 4 n
  | ack causes n =>
      refine transact_plain_ok ?_ 2 3 n
      exact ⟨rfl, id⟩
  | restart n =>
      refine transact_plain_ok ?_ 0 1 n
      change LinkOk s (restartLink s)
      unfold restartLink
      split
      · exact LinkOk.refl s
      · exact dropLink_ok
  | reset n =>
      unfold resetTransaction
      have h : LinkOk s (transact 0 1 n (plain fun s => (s, .done)) s) := transact_plain_ok (LinkOk.refl s) 0 1 n
      dsimp only
      split
      · exact h.trans (port_ok _)
      · exact h
  | bad n => exact transact_plain_ok (LinkOk.refl s) 0 1 n

theorem softReset_ok : LinkOk s (softReset s) := by
  have access : LinkKept s (softAccess s) := by
    unfold softAccess
    split <;> exact LinkKept.of_eq rfl rfl rfl rfl
  have entry : ∀ t (i : WinIdx), LinkKept t (t.setEntry i (t.entry i).softReset) := fun _ _ =>
    LinkKept.of_eq rfl rfl rfl rfl
  have blocks : LinkKept s (softWindows (softAccess s)) := access.trans (LinkKept.foldl entry _ _)
  have train : ∀ u, u.resetLow = s.resetLow → u.link.state = .down → u.linkShaped = true →
      u.settings.linkEnable = s.settings.linkEnable → u.link.laneReady = s.link.laneReady → LinkOk s (tryTrain u) :=
    fun u hr hd hs he hl => ⟨tryTrain_kept.resetLow.trans hr, fun h => tryTrain_linkValid hd hs fun a b => by
      rw [hr]; exact resetLow_of_linkValid h (he ▸ a) (hl ▸ b)⟩
  unfold softReset
  dsimp only
  generalize softWindows (softAccess s) = u at blocks ⊢
  refine train _ blocks.resetLow rfl ?_ blocks.enable (by simp only [Link.softReset]; rw [blocks.link])
  simp [State.linkShaped, Link.softReset, Sched.softReset, Sched.allEmpty]

theorem rise_ok : LinkOk s (rise s) := by
  unfold rise
  split
  · exact softReset_ok
  · exact LinkOk.refl s

theorem riseIfDue_ok : LinkOk s (riseIfDue s) := by
  unfold riseIfDue
  split
  · exact (rise_ok.trans finish_linkKept.ok).trans settle_ok
  · exact LinkOk.refl s

theorem manage_ok {f : State → State} (h : Transaction f) : LinkOk s (manage f s) := by
  unfold manage
  split
  · exact LinkOk.refl s
  · rename_i hr
    have before : LinkOk s (riseIfDue (settle s)) := settle_ok.trans riseIfDue_ok
    have low : (riseIfDue (settle s)).resetLow = false := before.resetLow.trans (by simpa using hr)
    exact (before.trans (transaction_ok h low)).trans finish_linkKept.ok

/-- A link at its pin reset values is valid, whatever the rest (R81). -/
theorem pinReset_linkValid (low : Bool) : (pinReset low s).linkValid = true :=
  (by decide : State.reset.linkValid = true)

theorem exec_linkValid {c : Instr} {s t : State} (h : exec c s = .next t) (hv : s.linkValid = true) :
    t.linkValid = true := by
  obtain ⟨u, hu, hk⟩ := exec_cases c s
  cases h.symm.trans hu
  rcases hk with ⟨_, hr⟩ | ⟨_, hr⟩
  · cases hr with
    | own f hf ht => exact ht ▸ (ownStep_ok hf s).valid hv
    | happening f hf ht => exact ht ▸ (outside_ok (happening_ok hf)).valid hv
    | tick _ ht => exact ht ▸ tickEvent_ok.valid hv
  · cases hr with
    | transaction f hf ht => exact ht ▸ (manage_ok hf).valid hv
    | softReset ht => exact ht ▸ (outside_ok fun _ => rise_ok).valid hv
    | assert ht => exact ht ▸ pinReset_linkValid true
    | release ht =>
        subst ht
        unfold releaseEvent
        split
        · exact finish_linkKept.linkValid (pinReset_linkValid false)
        · exact hv

/-- Settles O58: a step runs one command, and every kind of command keeps the link valid. -/
theorem linkStaysValid : Obligations.LinkStaysValid := by
  unfold Obligations.LinkStaysValid
  intro s t h hv
  rcases step_cases h with rfl | ⟨c, rest, _, he⟩
  · exact hv
  · exact exec_linkValid he hv

end Sys2Proof.Machine
end

section
/-! SUPPORT. What an event leaves when it ends: the latches and notices it has set stay set, an access unit that waits
leaves the table and the ports alone, and the conditions depend on few fields. -/

namespace Sys2Proof.Machine

/-! ### Latches and notices only grow until the judgement -/

/-- The causes without a condition (R154, R155). -/
def Cause.isPulse : Cause → Bool
  | .linkDown | .journalLow | .holding => false
  | _ => true

/-- The conditions of a part are those of the three condition causes. -/
theorem conditions_pulse (s : State) {c : Cause} (h : c.isPulse = true) : s.conditions &&& c.bit = 0#13 := by
  unfold State.conditions
  split <;> split <;> split <;> cases c <;> revert h <;> decide

theorem pulse_of_seesConditions {e : EventUnit} (hs : e.seesConditions = true) {c : Cause} (h : c.isPulse = true) :
    e.cond &&& c.bit = 0#13 := by
  have clear : c.bit &&& ~~~ (Cause.linkDown.bit ||| Cause.journalLow.bit ||| Cause.holding.bit) = c.bit := by
    cases c <;> revert h <;> decide
  have seen : e.cond &&& ~~~ (Cause.linkDown.bit ||| Cause.journalLow.bit ||| Cause.holding.bit) = 0#13 := by
    simpa [EventUnit.seesConditions] using hs
  rw [← clear, BitVec.and_comm c.bit, ← BitVec.and_assoc, seen, BitVec.zero_and]

theorem pulse_of_still {s : State} (hs : s.still = true) {c : Cause} (h : c.isPulse = true) :
    s.ev.cond &&& c.bit = 0#13 := by
  obtain ⟨_, _, _, _, _, _, seen⟩ := still_iff.mp hs
  rw [seen, conditions_pulse s h]

/-- An event unit that has gained latches and notices and lost nothing. -/
structure EventUnit.Grows (e f : EventUnit) : Prop where
  cond : f.cond = e.cond
  unmasked : f.unmasked = e.unmasked
  ackMem : f.ackMem = e.ackMem
  raised : e.pending &&& f.pending = e.pending
  noticed : e.notice &&& f.notice = e.notice

theorem EventUnit.Grows.refl (e : EventUnit) : e.Grows e := by constructor <;> simp

theorem EventUnit.Grows.of_eq {e f : EventUnit} (h : f = e) : e.Grows f := h ▸ EventUnit.Grows.refl e

theorem EventUnit.Grows.trans {e f g : EventUnit} (h : e.Grows f) (k : f.Grows g) : e.Grows g where
  cond := k.cond.trans h.cond
  unmasked := k.unmasked.trans h.unmasked
  ackMem := k.ackMem.trans h.ackMem
  raised := and_trans h.raised k.raised
  noticed := and_trans h.noticed k.noticed

theorem EventUnit.raise_grows (e : EventUnit) (c : Cause) : e.Grows (e.raise c) := by
  constructor <;> simp [EventUnit.raise, and_or_self]

theorem EventUnit.addNotice_grows (e : EventUnit) (id : StreamId) : e.Grows (e.addNotice id) := by
  constructor <;> simp [EventUnit.addNotice, and_or_self]

theorem StreamLocal.grows {i : WinIdx} {s t : State} (h : StreamLocal i s t) : s.ev.Grows t.ev :=
  ⟨h.ev.1, h.ev.2.1, h.ev.2.2, h.raised, h.noticed⟩

/-- A mask of one bit that meets a word lies in it. -/
theorem and_bit_of_ne_zero {w : Nat} {x : BitVec w} {k : Nat} (h : x &&& (1#w <<< k) ≠ 0#w) :
    x &&& (1#w <<< k) = 1#w <<< k := by
  rw [← BitVec.twoPow_eq, BitVec.and_twoPow] at h ⊢
  split <;> simp_all

/-- A latch is one bit: it is set when the mask meets it. -/
theorem caused_iff {s : State} {c : Cause} : s.caused c = true ↔ s.ev.pending &&& c.bit = c.bit := by
  refine ⟨fun h => ?_, caused_of_bit⟩
  unfold Cause.bit
  exact and_bit_of_ne_zero (by simpa [State.caused, Cause.bit] using h)

theorem noticed_iff {s : State} {id : StreamId} :
    s.noticed id = true ↔ s.ev.notice &&& (1#16 <<< id.toNat) = 1#16 <<< id.toNat :=
  ⟨fun h => and_bit_of_ne_zero (by simpa [State.noticed] using h), noticed_of_bit⟩

theorem mask_grows {w : Nat} {a b m : BitVec w} (h : a &&& b = a) (hm : a &&& m = m) : b &&& m = m := by
  rw [BitVec.and_comm]
  exact and_trans (by rw [BitVec.and_comm]; exact hm) h

theorem EventUnit.Grows.caused {s t : State} (h : s.ev.Grows t.ev) {c : Cause} (hc : s.caused c = true) :
    t.caused c = true :=
  caused_iff.mpr (mask_grows h.raised (caused_iff.mp hc))

theorem EventUnit.Grows.noticedBy {s t : State} (h : s.ev.Grows t.ev) {id : StreamId} (hn : s.noticed id = true) :
    t.noticed id = true :=
  noticed_iff.mpr (mask_grows h.noticed (noticed_iff.mp hn))

theorem caused_of_raise {t : State} {e : EventUnit} {c : Cause} (h : t.ev = e.raise c) : t.caused c = true :=
  caused_iff.mpr (by rw [h]; exact raise_pending e c)

theorem noticed_of_addNotice {t : State} {e : EventUnit} {id : StreamId} (h : (e.addNotice id).Grows t.ev) :
    t.noticed id = true :=
  noticed_iff.mpr (mask_grows h.noticed (by
    rw [and_mask_eq_mask_iff]; intro k hk hb; simp only [EventUnit.addNotice, BitVec.getElem_or, hb, Bool.or_true]))

/-! ### Accepting -/

theorem accept_grows (a : Access) (s : State) : s.ev.Grows (accept a s).ev := by
  unfold accept
  split
  · exact EventUnit.Grows.refl _
  · split
    · exact EventUnit.Grows.refl _
    · split
      · exact EventUnit.Grows.refl _
      · split
        · exact EventUnit.raise_grows _ _
        · split
          · exact EventUnit.raise_grows _ _
          · exact EventUnit.Grows.refl _
      · split
        · unfold reserveWrite
          split
          · exact EventUnit.Grows.refl _
          · split
            · split
              · exact EventUnit.Grows.refl _
              · exact reseed_sourceLocal.grows
            · exact EventUnit.Grows.refl _
        · exact EventUnit.Grows.refl _

theorem takePresented_grows (s : State) : s.ev.Grows (takePresented s).ev := by
  unfold takePresented
  split
  · rename_i a _ _
    exact accept_grows a { s with bus := { s.bus with presented := none } }
  · exact EventUnit.Grows.refl _

/-! ### The end of an event -/

variable {s : State}

/-- The event unit at the end of an event is that of the taken access, judged or not yet. -/
theorem finish_ev (s : State) : (finish s).ev = s.ev ∨ (finish s).ev = (takePresented s).ev
    ∨ ∃ now : BitVec 13, (finish s).ev = (takePresented s).ev.judge now
      ∧ ∀ c : Cause, c.isPulse = true → now &&& c.bit = 0#13 := by
  unfold finish
  split
  · exact .inl rfl
  · have ev : (keepOffers (applyChoose (seedTake (takePresented s)))).ev = (takePresented s).ev := by
      rw [keepOffers_frame, applyChoose_frame, seedTake_frame]
    rw [judgeIfOver_ev, ev]
    split
    · exact .inr (.inl rfl)
    · exact .inr (.inr ⟨_, rfl, fun c h => conditions_pulse _ h⟩)

/-- A pulse cause raised in an event is pending at its end (R155). -/
theorem finish_caused {c : Cause} (hp : c.isPulse = true) (hc : s.ev.cond &&& c.bit = 0#13)
    (h : s.caused c = true) : (finish s).caused c = true := by
  have g := takePresented_grows s
  have taken : (takePresented s).caused c = true := g.caused h
  rcases finish_ev s with e | e | ⟨now, e, clear⟩
  · exact caused_iff.mpr (by rw [e]; exact caused_iff.mp h)
  · exact caused_iff.mpr (by rw [e]; exact caused_iff.mp taken)
  · refine caused_iff.mpr ?_
    rw [e, judge_pending_of_stands]
    · exact caused_iff.mp taken
    · rw [g.cond, hc, clear c hp]

/-- A stream noticed in an event is noticed at its end (R161). -/
theorem finish_noticed {id : StreamId} (h : s.noticed id = true) : (finish s).noticed id = true := by
  have taken : (takePresented s).noticed id = true := (takePresented_grows s).noticedBy h
  rcases finish_ev s with e | e | ⟨now, e, _⟩
  · exact noticed_iff.mpr (by rw [e]; exact noticed_iff.mp h)
  · exact noticed_iff.mpr (by rw [e]; exact noticed_iff.mp taken)
  · exact noticed_iff.mpr (by rw [e]; exact noticed_iff.mp taken)

/-- The access unit has nothing to take. -/
def State.accessRests (s : State) : Prop := s.acc.phase ≠ .idle ∨ s.bus.presented = none

section Rests

variable (h : s.accessRests)
include h

theorem finish_windows : (finish s).windows = s.windows := by rw [finish_frame h]
theorem finish_entry (j : WinIdx) : (finish s).entry j = s.entry j := by rw [finish_frame h]; rfl
theorem finish_source? (j : WinIdx) : (finish s).source? j = s.source? j := by rw [finish_frame h]; rfl
theorem finish_sink? (j : WinIdx) : (finish s).sink? j = s.sink? j := by rw [finish_frame h]; rfl
theorem finish_acc : (finish s).acc = s.acc := by rw [finish_frame h]
theorem finish_bus : (finish s).bus = s.bus := by rw [finish_frame h]
theorem finish_arb : (finish s).arb = s.arb := by rw [finish_frame h]
theorem finish_link : (finish s).link = s.link := by rw [finish_frame h]
theorem finish_sched : (finish s).sched = s.sched := by rw [finish_frame h]
theorem finish_ctlSlot (id : StreamId) : (finish s).ctlSlot id = s.ctlSlot id := by rw [finish_frame h]; rfl
theorem finish_ackFlag (id : StreamId) : (finish s).ackFlag id = s.ackFlag id := by rw [finish_frame h]; rfl
theorem finish_port : (finish s).port = s.port := by rw [finish_frame h]
theorem finish_settings : (finish s).settings = s.settings := by rw [finish_frame h]
theorem finish_tickLength : (finish s).tickLength = s.tickLength := by rw [finish_frame h]
theorem finish_isHeld : (finish s).isHeld = s.isHeld := by rw [finish_frame h]; rfl

end Rests

theorem still_accessRests (h : s.still = true) : s.accessRests := (still_iff.mp h).2.2.2.1

/-- With nothing to take or to choose and no release to offer, an event ends with the judgement. -/
theorem finish_of_settled (hr : s.resetLow = false) (ha : s.accessRests)
    (hs : s.seed.phase ≠ .idle ∨ s.seed.queue = []) (hp : s.applyRests = true)
    (ho : s.offers = { held := false, seed := false }) : finish s = judgeIfOver s := by
  rw [finish_of_idle hr ha hs hp]
  have keep : keepOffers s = s := by
    cases s; simp_all [keepOffers, State.heldOfferDue, State.seedOfferDue]
  rw [keep]

theorem judgeIfOver_of_eq (h : s.ev.cond = s.conditions) : judgeIfOver s = s := by
  unfold judgeIfOver judge
  split
  · rfl
  · rw [judge_of_eq h]

/-- What an access taken from a still part leaves to the end of the event: the acceptance. -/
theorem finish_of_presented {a : Access} (hr : s.resetLow = false) (hi : s.acc.phase = .idle)
    (hb : s.bus.presented = some a) :
    finish s = finish (accept a { s with bus := { s.bus with presented := none } }) := by
  have taken : takePresented s = accept a { s with bus := { s.bus with presented := none } } := by
    unfold takePresented; simp only [hi, hb]
  obtain ⟨rs, _, bus⟩ := accept_bus a { s with bus := { s.bus with presented := none } }
  have low := (accept_kept (s := { s with bus := { s.bus with presented := none } }) a).resetLow
  generalize accept a { s with bus := { s.bus with presented := none } } = u at taken bus low
  have empty : u.bus.presented = none := by rw [bus]
  have high : u.resetLow = false := low.trans hr
  unfold finish
  rw [taken, takePresented_of_busy (.inr empty), high, hr]
  rfl

/-! ### What the conditions depend on -/

theorem freeCount_congr {s t : State} (hw : ∀ j, t.recordCount j = s.recordCount j) (ha : t.acc.resv = s.acc.resv)
    (hs : t.seed.resv = s.seed.resv) : t.freeCount = s.freeCount := by
  have : t.recordCount = s.recordCount := funext hw
  simp [State.freeCount, State.usedSlots, this, ha, hs]

theorem recordCount_congr {s t : State} {j : WinIdx} (h : t.source? j = s.source? j) :
    t.recordCount j = s.recordCount j := by
  simp [State.recordCount, h]

theorem conditions_congr {s t : State} (h1 : t.settings.linkEnable = s.settings.linkEnable)
    (h2 : t.settings.journalLow = s.settings.journalLow) (h3 : t.link.state = s.link.state)
    (h4 : t.freeCount = s.freeCount) (h5 : t.isHeld = s.isHeld) : t.conditions = s.conditions := by
  simp [State.conditions, h1, h2, h3, h4, h5]

theorem source?_of_windows {s t : State} (h : t.windows = s.windows) (j : WinIdx) : t.source? j = s.source? j := by
  simp [State.source?, State.entry, h]

theorem sink?_of_windows {s t : State} (h : t.windows = s.windows) (j : WinIdx) : t.sink? j = s.sink? j := by
  simp [State.sink?, State.entry, h]

theorem lookup_of_windows {s t : State} (h : t.windows = s.windows) (id : StreamId) : t.lookup id = s.lookup id := by
  simp [State.lookup, State.entry, h]

theorem decode_of_windows {s t : State} (h : t.windows = s.windows) (addr : Word) : t.decode addr = s.decode addr := by
  simp [State.decode, State.entry, h]

theorem applyHead_of_windows {s t : State} (h : t.windows = s.windows) (id : StreamId) :
    t.applyHead id = s.applyHead id := by
  simp only [State.applyHead, lookup_of_windows h, sink?_of_windows h]

theorem applyRests_congr {s t : State} (ha : t.apply = s.apply) (hh : ∀ id, t.applyHead id = s.applyHead id) :
    t.applyRests = s.applyRests := by
  simp only [State.applyRests, ha, hh]

theorem isHeld_of_phase {s t : State} (h : t.acc.phase = s.acc.phase) : t.isHeld = s.isHeld := by
  simp [State.isHeld, h]

/-- A part at rest whose access unit, ports, link, event unit or settings change ends its event with the judgement. -/
theorem finish_of_still_windows {s t : State} (h : s.still = true) (hr : t.resetLow = s.resetLow)
    (ha : t.accessRests) (hw : t.windows = s.windows) (hs : t.seed = s.seed) (hp : t.apply = s.apply)
    (ho : t.offers = s.offers) : finish t = judgeIfOver t := by
  obtain ⟨low, offers, _, _, seed, apply, _⟩ := still_iff.mp h
  refine finish_of_settled (hr.trans low) ha (by rw [hs]; exact seed) ?_ (ho.trans offers)
  rw [applyRests_congr hp (applyHead_of_windows hw), apply]

/-- If the conditions stand besides, it ends unchanged. -/
theorem finish_of_still_same {s t : State} (h : s.still = true) (hr : t.resetLow = s.resetLow)
    (ha : t.accessRests) (hw : t.windows = s.windows) (hs : t.seed = s.seed) (hp : t.apply = s.apply)
    (ho : t.offers = s.offers) (hc : t.ev.cond = s.ev.cond)
    (h1 : t.settings.linkEnable = s.settings.linkEnable) (h2 : t.settings.journalLow = s.settings.journalLow)
    (h3 : t.link.state = s.link.state) (h4 : t.acc.resv = s.acc.resv) (h5 : t.isHeld = s.isHeld) :
    finish t = t := by
  rw [finish_of_still_windows h hr ha hw hs hp ho]
  apply judgeIfOver_of_eq
  obtain ⟨_, _, _, _, _, _, seen⟩ := still_iff.mp h
  rw [hc, seen]
  refine (conditions_congr h1 h2 h3 (freeCount_congr (fun j => ?_) h4 (by rw [hs])) h5).symm
  exact recordCount_congr (source?_of_windows hw j)

end Sys2Proof.Machine
end

section
/-! SUPPORT. Accesses at their acceptance: the outcomes of the form check, the decode and the reservation test, and the
overflow that reseeds a stream (R1 to R9, R13, R14, R16). -/

namespace Sys2Proof.Machine

variable {s : State} {a : Access} {i : WinIdx}

/-! ### The outcomes of acceptance -/

theorem accept_of_malformed (h : a.formOk = false) : accept a s = respond false [] s := by
  simp [accept, h]

theorem accept_of_no_window (hf : a.formOk = true) (h : s.decode a.addr = none) :
    accept a s = requestPort a none s := by
  simp [accept, hf, h]

theorem accept_of_sink {c : SinkCtx} (hf : a.formOk = true) (hd : s.decode a.addr = some i)
    (hc : s.sink? i = some c) : accept a s =
      if a.isWrite then refuseWrite s
      else if (s.entry i).guardsRead c then refuseRead s else requestPort a none s := by
  rw [sink?_eq_some] at hc
  simp [accept, hf, hd, hc]

theorem accept_of_source {c : SourceCtx} (hf : a.formOk = true) (hd : s.decode a.addr = some i)
    (hc : s.source? i = some c) : accept a s =
      if a.isWrite && c.state.journals then reserveWrite a i c s else requestPort a none s := by
  rw [source?_eq_some] at hc
  simp [accept, hf, hd, hc]

/-- An address decodes to an enabled window, which owns a context. -/
theorem decode_context (h : s.decode a.addr = some i) :
    (∃ c, s.source? i = some c) ∨ ∃ c, s.sink? i = some c := by
  obtain ⟨enabled, _⟩ := decode_some h
  unfold Entry.enabled at enabled
  cases hr : (s.entry i).role with
  | off => rw [hr] at enabled; cases enabled
  | source c => exact .inl ⟨c, source?_eq_some.mpr hr⟩
  | sink c => exact .inr ⟨c, sink?_eq_some.mpr hr⟩

/-- The part with the presented access taken from the bus. -/
def State.busTaken (s : State) : State := { s with bus := { s.bus with presented := none } }

/-- An access presented to an IDLE unit at rest is accepted in the same event (R1). -/
theorem exec_accessPresented (h : s.calm = true) (hi : s.acc = idleAccess) (a : Access) :
    exec (.accessPresented a) s = .next (finish (accept a s.busTaken)) := by
  have event : exec (.accessPresented a) s = .next (outside (present a) s) := rfl
  have idle : (present a s).acc.phase = .idle := by simp [present, hi, idleAccess]
  have low := calm_resetLow h
  rw [event, outside_of_calm h,
    finish_of_presented (s := present a s) (a := a) (show (present a s).resetLow = false from low) idle rfl]
  rfl

/-- An event that ends with the IDLE access unit of a calm part, its table, engines and link as they were. -/
theorem finish_of_idle_same {t : State} (h : s.calm = true) (hi : s.acc = idleAccess)
    (hr : t.resetLow = s.resetLow) (ha : t.accessRests) (hw : t.windows = s.windows) (hs : t.seed = s.seed)
    (hp : t.apply = s.apply) (ho : t.offers = s.offers) (hc : t.ev.cond = s.ev.cond)
    (hset : t.settings = s.settings) (hl : t.link = s.link) (h4 : t.acc.resv = none) (h5 : t.isHeld = false) :
    finish t = t := by
  refine finish_of_still_same (calm_still h) hr ha hw hs hp ho hc (by rw [hset]) (by rw [hset]) (by rw [hl]) ?_ ?_
  · rw [h4, hi]; rfl
  · rw [h5]; simp [State.isHeld, hi, idleAccess]

/-- Settles O9: each refusal leaves the unit IDLE, so nothing but the bus and the refusal's cause has changed. -/
theorem accessRefusedAtAcceptance : Obligations.AccessRefusedAtAcceptance := by
  have idle : ∀ {s : State}, s.acc = idleAccess →
      ({ phase := .idle, resv := none, holdTimer := none } : AccessUnit) = s.acc := fun h => h.symm
  unfold Obligations.AccessRefusedAtAcceptance
  refine ⟨?malformed, ?refused⟩
  case malformed =>
    intro s a calm acc form
    rw [exec_accessPresented calm acc, accept_of_malformed form,
      finish_of_idle_same (t := respond false [] s.busTaken) calm acc rfl (.inr rfl) rfl rfl rfl rfl rfl rfl rfl rfl rfl]
    simp only [respond, State.busTaken, idle acc]
  case refused =>
    intro s a i c calm acc form decode ctx
    have decode' : s.busTaken.decode a.addr = some i := decode
    have ctx' : s.busTaken.sink? i = some c := ctx
    rw [exec_accessPresented calm acc, accept_of_sink form decode' ctx']
    constructor
    · intro write
      rw [if_pos write, finish_of_idle_same (t := refuseWrite s.busTaken) calm acc rfl (.inr rfl) rfl rfl rfl rfl rfl rfl rfl rfl rfl]
      simp only [refuseWrite, raise, respond, State.busTaken, idle acc]
    · intro read guard stale
      have guards : (s.busTaken.entry i).guardsRead c = true := by
        change (s.entry i).guardsRead c = true
        simp [Entry.guardsRead, guard, stale]
      rw [if_neg (by simp [read]), if_pos guards,
        finish_of_idle_same (t := refuseRead s.busTaken) calm acc rfl (.inr rfl) rfl rfl rfl rfl rfl rfl rfl rfl rfl]
      simp only [refuseRead, raise, respond, State.busTaken, idle acc]

/-- An access that goes to REQUESTING without a reservation ends its event so. -/
theorem finish_requestPort_none (h : s.calm = true) (hi : s.acc = idleAccess) (a : Access) :
    finish (requestPort a none s.busTaken) = { s with
      bus := { s.bus with presented := none }, acc := { idleAccess with phase := .requesting a } } := by
  rw [finish_of_idle_same (t := requestPort a none s.busTaken) h hi rfl (.inr rfl) rfl rfl rfl rfl rfl rfl rfl rfl rfl]
  rfl

/-- Settles O10: the decode finds no window, or one whose context neither refuses the access nor asks for slots. -/
theorem unjournaledAccessRequestsPort : Obligations.UnjournaledAccessRequestsPort := by
  unfold Obligations.UnjournaledAccessRequestsPort
  intro s a calm acc form free
  have accepted : accept a s.busTaken = requestPort a none s.busTaken := by
    cases decode : s.decode a.addr with
    | none => exact accept_of_no_window form decode
    | some i =>
        rw [decode, Option.all_some, Bool.and_eq_true] at free
        obtain ⟨source, sink⟩ := free
        rcases decode_context decode with ⟨c, ctx⟩ | ⟨c, ctx⟩
        · rw [accept_of_source (s := s.busTaken) form decode ctx]
          rw [ctx] at source
          have free : ¬ (a.isWrite && c.state.journals) = true := by
            intro both
            obtain ⟨write, journals⟩ := Bool.and_eq_true_iff.mp both
            simp [write, journals] at source
          rw [if_neg free]
        · rw [accept_of_sink (s := s.busTaken) form decode ctx]
          rw [ctx] at sink
          have unguarded : (a.isWrite = false) ∧ (s.entry i).guardsRead c = false := by simpa using sink
          have unguarded' : ¬ (s.busTaken.entry i).guardsRead c = true := by
            change ¬ (s.entry i).guardsRead c = true
            simp [unguarded.2]
          rw [if_neg (by simp [unguarded.1]), if_neg unguarded']
  rw [exec_accessPresented calm acc, accepted, finish_requestPort_none calm acc]

/-! ### The reservation test -/

theorem reserveOk_le {k : Nat} (h : s.reserveOk i k = true) : k ≤ s.freeCount := by
  simp only [State.reserveOk, Bool.and_eq_true, decide_eq_true_eq] at h
  exact h.1

/-- A held write makes HOLDING true at the end of its event (R13, R157). -/
theorem caused_holding {t : State} (h : s.still = true) (held : s.isHeld = false) (hev : t.ev = s.ev)
    (ht : t.isHeld = true) (done : t.midEvent = false) : (judgeIfOver t).caused .holding = true := by
  obtain ⟨_, _, _, _, _, _, seen⟩ := still_iff.mp h
  refine caused_iff.mpr ?_
  rw [judgeIfOver_ev, if_neg (by simp [done])]
  apply judge_pending_of_begins
  · rw [hev, seen]
    unfold State.conditions
    rw [held]
    split <;> split <;> decide
  · unfold State.conditions
    rw [ht]
    split <;> split <;> decide

theorem holding_of_waitSlots {t : State} {a : Access} {w : WinIdx} (h : s.calm = true) (hi : s.acc = idleAccess)
    (hev : t.ev = s.ev) (ht : t.acc.phase = .waitSlots a w) (ho : t.offers = s.offers) (harb : t.arb = s.arb)
    (hs : t.seed = s.seed) (hp : t.apply = s.apply) : (judgeIfOver t).caused .holding = true := by
  obtain ⟨_, offers, grant, _⟩ := still_iff.mp (calm_still h)
  refine caused_holding (calm_still h) (by simp [State.isHeld, hi, idleAccess]) hev (by simp [State.isHeld, ht]) ?_
  have requests : t.requests = s.requests := by
    funext r
    cases r <;> simp [State.requests, ht, hi, idleAccess, hs, hp]
  have none : t.grantDue = none := by
    unfold State.grantDue at grant ⊢
    rw [harb, requests]
    exact grant
  simp [State.midEvent, State.heldOfferDue, State.seedOfferDue, ho, offers, none]

/-- Settles O11: the test passes, fails with no records needed, or fails under HOLD. -/
theorem writeAsksForSlots : Obligations.WriteAsksForSlots := by
  unfold Obligations.WriteAsksForSlots
  intro s a i c calm acc form write decode ctx journals
  have accepted : exec (.accessPresented a) s = .next (finish (reserveWrite a i c s.busTaken)) := by
    rw [exec_accessPresented calm acc, accept_of_source (s := s.busTaken) form decode ctx, 
      if_pos (by simp [write, journals])]
  have ends : ∀ t : State, t.resetLow = s.resetLow → t.accessRests → t.windows = s.windows → t.seed = s.seed →
      t.apply = s.apply → t.offers = s.offers → finish t = { t with ev := (finish t).ev } ∧ finish t = judgeIfOver t := by
    intro t h1 h2 h3 h4 h5 h6
    have e := finish_of_still_windows (calm_still calm) h1 h2 h3 h4 h5 h6
    exact ⟨by rw [e]; exact judgeIfOver_frame t, e⟩
  refine ⟨?passes, ?unneeded, ?held⟩
  case passes =>
    intro ok
    refine ⟨_, accepted, ?_, ?_⟩
    all_goals
      have reserved : reserveWrite a i c s.busTaken =
          requestPort a (some { win := i, slots := a.slots }) s.busTaken := by
        rw [reserveWrite, if_pos (show s.busTaken.reserveOk i a.slots = true from ok)]
      rw [reserved]
    · rw [(ends (requestPort a (some { win := i, slots := a.slots }) s.busTaken) rfl (.inr rfl) rfl rfl rfl rfl).1]
      rfl
    · rw [(ends (requestPort a (some { win := i, slots := a.slots }) s.busTaken) rfl (.inr rfl) rfl rfl rfl rfl).1]
      have before : s.acc.resv = none := by rw [acc]; rfl
      change (allWindows.map s.recordCount).sum + a.slots + slotsOf s.seed.resv = _
      simp only [State.usedSlots, before, slotsOf_none]
      omega
  case unneeded =>
    intro fails unneeded
    rw [accepted, reserveWrite, if_neg (show ¬ s.busTaken.reserveOk i a.slots = true from by
        change ¬ s.reserveOk i a.slots = true; simp [fails]),
      if_neg (show ¬ c.needsRecords (s.busTaken.offsetIn i a) = true from by
        change ¬ c.needsRecords (s.offsetIn i a) = true; simp [unneeded]), finish_requestPort_none calm acc]
  case held =>
    intro fails needed policy
    have held : reserveWrite a i c s.busTaken = holdWrite a i s.busTaken := by
      rw [reserveWrite, if_neg (show ¬ s.busTaken.reserveOk i a.slots = true from by
        change ¬ s.reserveOk i a.slots = true; simp [fails]),
        if_pos (show c.needsRecords (s.busTaken.offsetIn i a) = true from needed)]
      have policy' : (s.busTaken.entry i).policy = .hold := policy
      simp only [policy']
    refine ⟨_, accepted, ?_, ?_⟩
    all_goals rw [held]
    · rw [(ends (holdWrite a i s.busTaken) rfl (.inr rfl) rfl rfl rfl rfl).1]
      rfl
    · rw [(ends (holdWrite a i s.busTaken) rfl (.inr rfl) rfl rfl rfl rfl).2]
      exact holding_of_waitSlots calm acc rfl rfl rfl rfl rfl rfl

end Sys2Proof.Machine
end

section
/-! SUPPORT. What a discard, a fault, a close, a closing and a reseed leave in every field a later event looks at, and how
an event ends with them (R55, R113, R115, R117, R118). -/

namespace Sys2Proof.Machine

variable {s : State} {i : WinIdx} {c : SourceCtx}

/-! ### The access unit after a discard -/

/-- The access unit with a reservation against window `i` dropped (R12). -/
def AccessUnit.dropResv (i : WinIdx) (a : AccessUnit) : AccessUnit :=
  if slotsAgainst a.resv i = 0 then a else { a with resv := none }

theorem AccessUnit.dropResv_phase (a : AccessUnit) (i : WinIdx) : (a.dropResv i).phase = a.phase := by
  unfold AccessUnit.dropResv; split <;> rfl

theorem AccessUnit.discard_eq (a : AccessUnit) (i : WinIdx) : a.discard i = match a.phase with
    | .waitSlots x w =>
        if w = i then { a.dropResv i with phase := .requesting x, holdTimer := none } else a.dropResv i
    | .granted x (some j) => if j.win = i then { a.dropResv i with phase := .granted x none } else a.dropResv i
    | _ => a.dropResv i := by
  rw [← AccessUnit.dropResv_phase a i]
  rfl

theorem AccessUnit.discard_idle (a : AccessUnit) (i : WinIdx) : (a.discard i).phase = .idle ↔ a.phase = .idle := by
  rw [AccessUnit.discard_eq]
  split
  · rename_i x w h
    split <;> simp [AccessUnit.dropResv_phase, h]
  · rename_i x j h
    split <;> simp [AccessUnit.dropResv_phase, h]
  · rw [AccessUnit.dropResv_phase]

theorem accessRests_of_discard {t : State} (h : s.accessRests) (ha : t.acc = s.acc.discard i) (hb : t.bus = s.bus) :
    t.accessRests := by
  rcases h with h | h
  · exact .inl (by rw [ha, ne_eq, AccessUnit.discard_idle]; exact h)
  · exact .inr (by rw [hb]; exact h)

/-! ### The reseed -/

theorem discardEv_grows (id : StreamId) (c : SourceCtx) (e : EventUnit) : e.Grows (discardEv id c e) := by
  unfold discardEv
  split
  · exact (e.addNotice_grows id).trans (EventUnit.raise_grows _ _)
  · exact EventUnit.Grows.refl e

/-- The context a reseed leaves: opening again, or waiting for the link (R113). -/
def SourceCtx.reseeded (c : SourceCtx) (up : Bool) (timeout : Nat) : SourceCtx :=
  if up then c.reseeding.openingNow .reseed timeout
  else { c.reseeding with state := .pending, openReason := some .reseed }

theorem reseed_source?_same (h : s.source? i = some c) : (reseed i s).source? i =
    some (c.reseeded (s.link.state == .up) s.settings.controlTimeout) := by
  by_cases hl : s.link.state = .up
  · rw [reseed_eq_of_up h hl]
    simp [SourceCtx.reseeded, hl, setCtlSlot, State.source?]
    simp [State.entry, State.setEntry]
  · rw [reseed_eq_of_not_up h hl]
    simp [SourceCtx.reseeded, hl]

theorem reseeded_queue (c : SourceCtx) (b : Bool) (k : Nat) : (c.reseeded b k).queue = [] := by
  cases b <;> rfl

theorem reseeded_cursor (c : SourceCtx) (b : Bool) (k : Nat) : (c.reseeded b k).cursor = 0 := by
  cases b <;> rfl

theorem reseeded_fence (c : SourceCtx) (b : Bool) (k : Nat) : (c.reseeded b k).fence = none := by
  cases b <;> rfl

theorem reseeded_reseeds (c : SourceCtx) (b : Bool) (k : Nat) : (c.reseeded b k).reseeds = c.reseeds + 1#32 := by
  cases b <;> rfl

theorem reseeded_openReason (c : SourceCtx) (b : Bool) (k : Nat) : (c.reseeded b k).openReason = some .reseed := by
  cases b <;> rfl

section Reseed

variable (h : s.source? i = some c)
include h

theorem reseed_acc : (reseed i s).acc = s.acc.discard i := by
  by_cases hl : s.link.state = .up
  · rw [reseed_eq_of_up h hl]; rfl
  · rw [reseed_eq_of_not_up h hl]; rfl

theorem reseed_seed : (reseed i s).seed = s.seed.discard i := by
  by_cases hl : s.link.state = .up
  · rw [reseed_eq_of_up h hl]; rfl
  · rw [reseed_eq_of_not_up h hl]; rfl

theorem reseed_link : (reseed i s).link = s.link := by
  by_cases hl : s.link.state = .up
  · rw [reseed_eq_of_up h hl]; rfl
  · rw [reseed_eq_of_not_up h hl]; rfl

/-- A reseed is told: STREAM_RESEED and the notice (R113). -/
theorem reseed_ev : (reseed i s).ev =
    ((discardEv (s.entry i).stream c s.ev).addNotice (s.entry i).stream).raise .streamReseed := by
  by_cases hl : s.link.state = .up
  · rw [reseed_eq_of_up h hl]; rfl
  · rw [reseed_eq_of_not_up h hl]; rfl

theorem reseed_caused : (reseed i s).caused .streamReseed = true := caused_of_raise (reseed_ev h)

theorem reseed_noticed : (reseed i s).noticed (s.entry i).stream = true :=
  noticed_of_addNotice (by rw [reseed_ev h]; exact EventUnit.raise_grows _ _)

theorem reseed_sched_of_up (hl : s.link.state = .up) : (reseed i s).sched = (setCtlSlot (s.entry i).stream
    (some { epoch := c.epoch + 1#8, body := .openReq (s.entry i).length .reseed }) s).sched := by
  rw [reseed_eq_of_up h hl]; rfl

theorem reseed_accessRests (ha : s.accessRests) : (reseed i s).accessRests :=
  accessRests_of_discard ha (reseed_acc h) reseed_sourceLocal.bus

end Reseed

/-! ### The overflow -/

/-- An access unit that waits for slots of a discarded stream, or is IDLE, leaves no reservation behind (R56). -/
theorem requestPort_accessRests (a : Access) (r : Option Resv) (s : State) : (requestPort a r s).accessRests :=
  .inl (by simp [requestPort])

/-- What an overflow leaves, whichever event it belongs to (R14, R16, R51, R113). -/
theorem overflow_outcome {t : State} (a : Access) (pulse : t.ev.cond &&& Cause.streamReseed.bit = 0#13)
    (h : t.source? i = some c) :
    ∃ d, (finish (requestPort a none (reseed i t))).source? i = some d
      ∧ (finish (requestPort a none (reseed i t))).acc = { idleAccess with phase := .requesting a }
      ∧ d.queue = [] ∧ d.cursor = 0 ∧ d.fence = none ∧ d.reseeds = c.reseeds + 1#32 ∧ d.openReason = some .reseed
      ∧ (t.link.state = .up → d.state = .opening ∧ d.epoch = c.epoch + 1#8 ∧ d.nextSeq = 0#16
          ∧ (finish (requestPort a none (reseed i t))).ctlSlot (t.entry i).stream =
            some { epoch := d.epoch, body := .openReq (t.entry i).length .reseed })
      ∧ (t.link.state ≠ .up → d.state = .pending ∧ d.epoch = c.epoch)
      ∧ (finish (requestPort a none (reseed i t))).caused .streamReseed = true
      ∧ (finish (requestPort a none (reseed i t))).noticed (t.entry i).stream = true
      ∧ ∀ j, j ≠ i → (finish (requestPort a none (reseed i t))).entry j = t.entry j := by
  have rests := requestPort_accessRests a none (reseed i t)
  refine ⟨_, (finish_source? rests i).trans (reseed_source?_same h), finish_acc rests, reseeded_queue _ _ _,
    reseeded_cursor _ _ _, reseeded_fence _ _ _, reseeded_reseeds _ _ _, reseeded_openReason _ _ _, ?up, ?down, ?_, ?_, ?_⟩
  case up =>
    intro up
    have slot : (reseed i t).ctlSlot (t.entry i).stream =
        some { epoch := c.epoch + 1#8, body := .openReq (t.entry i).length .reseed } := by
      unfold State.ctlSlot
      rw [reseed_sched_of_up h up]
      exact (setCtlSlot_ctlSlot t _ _ _).trans (if_pos rfl)
    refine ⟨by simp [SourceCtx.reseeded, up, SourceCtx.openingNow], ?_, ?_, ?_⟩
    · simp [SourceCtx.reseeded, up, SourceCtx.openingNow, SourceCtx.reseeding, SourceCtx.discarded, SourceCtx.stopTimers]
    · simp [SourceCtx.reseeded, up, SourceCtx.openingNow]
    · rw [finish_ctlSlot rests]
      refine slot.trans ?_
      simp [SourceCtx.reseeded, up, SourceCtx.openingNow, SourceCtx.reseeding, SourceCtx.discarded, SourceCtx.stopTimers]
  case down =>
    intro down
    simp [SourceCtx.reseeded, down, SourceCtx.reseeding, SourceCtx.discarded, SourceCtx.stopTimers]
  · refine finish_caused rfl ?_ (reseed_caused h)
    have cond : (requestPort a none (reseed i t)).ev.cond = t.ev.cond := (reseed_sourceLocal (i := i) (s := t)).ev.1
    rw [cond]
    exact pulse
  · exact finish_noticed (reseed_noticed h)
  · intro j hj
    have kept : (requestPort a none (reseed i t)).entry j = t.entry j :=
      (reseed_sourceLocal (i := i) (s := t)).others j hj
    exact (finish_entry rests j).trans kept

/-- Settles O12: both events come to the reseed of the write's stream and the write's request for the port. -/
theorem overflowReseeds : Obligations.OverflowReseeds := by
  unfold Obligations.OverflowReseeds
  intro s a i c calm ctx cmd given
  have pulse := pulse_of_still (calm_still calm) (c := .streamReseed) rfl
  rcases given with ⟨rfl, acc, form, write, decode, journals, fails, needed, policy⟩ | ⟨rfl, phase, timer⟩
  · have overflow : accept a s.busTaken = requestPort a none (reseed i s.busTaken) := by
      have policy' : (s.busTaken.entry i).policy = .spill := policy
      have fails' : ¬ s.busTaken.reserveOk i a.slots = true := by
        change ¬ s.reserveOk i a.slots = true
        simp [fails]
      rw [accept_of_source (s := s.busTaken) form decode ctx, if_pos (by simp [write, journals]), reserveWrite,
        if_neg fails', if_pos (show c.needsRecords (s.busTaken.offsetIn i a) = true from needed)]
      simp only [policy']
    obtain ⟨d, h⟩ := overflow_outcome (t := s.busTaken) a pulse ctx
    exact ⟨_, d, (exec_accessPresented calm acc a).trans (by rw [overflow]), h⟩
  · have event : expireHold s = requestPort a none (reseed i s) := by
      simp only [expireHold, timer, if_true, holdExpired, phase]
    have run : exec .holdTimerExpiry s = .next (finish (requestPort a none (reseed i s))) := by
      change Host.Outcome.next (outside expireHold s) = _
      rw [outside_of_calm calm, event]
    obtain ⟨d, h⟩ := overflow_outcome a pulse ctx
    exact ⟨_, d, run, h⟩

end Sys2Proof.Machine
end

section
/-! SUPPORT. The grant to the access unit and the memory's answer to it: the requests that need no records, the pieces and
the merge of a journaled write, the responses (R10, R19, R42, R49, R50). -/

namespace Sys2Proof.Machine

variable {s : State} {a : Access} {i : WinIdx}

/-! ### What a grant finds -/

theorem readyToGrant_iff {r : Requester} : s.readyToGrant r = true ↔
    s.resetLow = false ∧ s.heldOfferDue = false ∧ s.seedOfferDue = false ∧ s.grantDue = some r ∧ s.accessRests
      ∧ s.ev.seesConditions = true := by
  simp [State.readyToGrant, State.accessRests, and_assoc]

theorem grantDue_some {r : Requester} (h : s.grantDue = some r) : s.arb.op = none ∧ s.requests r = true := by
  unfold State.grantDue at h
  split at h
  · cases h
  · rename_i op
    exact ⟨op, List.find?_some h⟩

theorem stepOfferSeed_of_none_due (hh : s.heldOfferDue = false) (hs : s.seedOfferDue = false) :
    stepOfferSeed s = s := by
  simp [stepOfferSeed, stepOfferHeld, hh, hs]

/-- A grant that is due next is made at once (R17). -/
theorem stepGrant_of_ready {r : Requester} (h : s.readyToGrant r = true) : stepGrant r s = finish (grant r s) := by
  obtain ⟨_, held, seed, due, _⟩ := readyToGrant_iff.mp h
  simp [stepGrant, stepOfferSeed_of_none_due held seed, due]

theorem pulse_of_ready {r : Requester} (h : s.readyToGrant r = true) {c : Cause} (hp : c.isPulse = true) :
    s.ev.cond &&& c.bit = 0#13 := by
  obtain ⟨_, _, _, _, _, sees⟩ := readyToGrant_iff.mp h
  exact pulse_of_seesConditions sees hp

/-! ### The grant without records -/

/-- Returning the reservation touches the access unit and the offers alone (R10). -/
theorem returnResv_frame (s : State) :
    returnResv s = { s with acc := { s.acc with resv := none }, offers := (returnResv s).offers } := by
  unfold returnResv
  split
  · rfl
  · rename_i h
    rw [← h]

theorem finish_beginAccess_rests (a : Access) (j : Option Journaled) (s : State) : (beginAccess a j s).accessRests :=
  .inl (by simp [beginAccess, beginOp])

/-- A grant that needs no records begins the access's operation and returns the reservation (R10, R18). -/
theorem grantAccess_unjournaled (hp : s.acc.phase = .requesting a)
    (free : ((s.decode a.addr).all fun i =>
        ((s.source? i).all fun c => !(a.isWrite && c.needsRecords (s.offsetIn i a)))
        && (s.sink? i).all fun c => !(a.isWrite || (s.entry i).guardsRead c)) = true) :
    grantAccess s = beginAccess a none (returnResv (rotate .access s)) := by
  have decode' : (rotate .access s).decode a.addr = s.decode a.addr := rfl
  unfold grantAccess
  simp only [hp, decode']
  cases decode : s.decode a.addr with
  | none => rfl
  | some i =>
      rw [decode, Option.all_some, Bool.and_eq_true] at free
      obtain ⟨source, sink⟩ := free
      simp only [rotate_entry]
      rcases decode_context decode with ⟨c, ctx⟩ | ⟨c, ctx⟩
      · rw [ctx] at source
        simp only [source?_eq_some.mp ctx]
        cases write : a.isWrite with
        | false => rfl
        | true =>
            have unneeded : c.needsRecords ((rotate .access s).offsetIn i a) = false := by
              change c.needsRecords (s.offsetIn i a) = false
              simpa [write] using source
            simp [grantWrite, unneeded]
      · rw [ctx] at sink
        have unguarded : a.isWrite = false ∧ (s.entry i).guardsRead c = false := by simpa using sink
        simp [sink?_eq_some.mp ctx, unguarded.1, unguarded.2]

/-- A grant to an access the table refuses leaves the port free (R5, R6). -/
theorem grantAccess_refused {c : SinkCtx} (hp : s.acc.phase = .requesting a) (hd : s.decode a.addr = some i)
    (hc : s.sink? i = some c) (hr : a.isWrite = true ∨ (s.entry i).guardsRead c = true) :
    grantAccess s = if a.isWrite then refuseWrite (returnResv (rotate .access s))
      else refuseRead (returnResv (rotate .access s)) := by
  have decode' : (rotate .access s).decode a.addr = some i := hd
  unfold grantAccess
  simp only [hp, decode', rotate_entry, sink?_eq_some.mp hc]
  cases write : a.isWrite with
  | true => rfl
  | false =>
      have guards : (s.entry i).guardsRead c = true := by simpa [write] using hr
      simp [guards]

/-- Settles O13: the operation is begun, or the access is answered ERROR with the port left free. -/
theorem accessGrantWithoutRecords : Obligations.AccessGrantWithoutRecords := by
  unfold Obligations.AccessGrantWithoutRecords
  refine ⟨?begun, ?refused⟩
  case begun =>
    intro s a ready phase free
    have run : exec .accessGrant s = .next (finish (beginAccess a none (returnResv (rotate .access s)))) := by
      rw [← grantAccess_unjournaled phase free]
      exact congrArg _ (stepGrant_of_ready ready)
    have rests := finish_beginAccess_rests a none (returnResv (rotate .access s))
    have frame := returnResv_frame (rotate .access s)
    refine ⟨_, run, ?_, ?_, ?_, ?_, ?_, ?_, ?_⟩
    · rw [finish_acc rests]; rfl
    · rw [finish_acc rests, frame]; rfl
    · rw [finish_arb rests, frame]; rfl
    · rw [finish_windows rests, frame]; rfl
    · rw [finish_bus rests, frame]; rfl
    · rw [finish_link rests, frame]; rfl
    · rw [finish_sched rests, frame]; rfl
  case refused =>
    intro s a i c ready presented phase decode ctx refused
    have pulse := fun {x : Cause} hx => pulse_of_ready ready (c := x) hx
    have guards : a.isWrite = true ∨ (s.entry i).guardsRead c = true := by
      rcases refused with write | ⟨guard, stale⟩
      · exact .inl write
      · exact .inr (by simp [Entry.guardsRead, guard, stale])
    have run : exec .accessGrant s = .next (finish (if a.isWrite then refuseWrite (returnResv (rotate .access s))
        else refuseRead (returnResv (rotate .access s)))) := by
      rw [← grantAccess_refused phase decode ctx guards]
      exact congrArg _ (stepGrant_of_ready ready)
    have op := (grantDue_some (readyToGrant_iff.mp ready).2.2.2.1).1
    have outcome : ∀ x : Cause, x.isPulse = true → ∀ u : State,
        u = raise x (respond false [] (returnResv (rotate .access s))) →
        (finish u).acc = idleAccess
        ∧ (finish u).arb = { order := s.arb.order.filter (· ≠ .access) ++ [.access], op := none }
        ∧ (finish u).bus = { presented := none, responses := { ok := false, data := [] } :: s.bus.responses }
        ∧ (finish u).caused x = true
        ∧ (finish u).windows = s.windows ∧ (finish u).link = s.link ∧ (finish u).sched = s.sched := by
      intro x hx u hu
      have frame := returnResv_frame (rotate .access s)
      rw [frame] at hu
      have rests : u.accessRests := .inr (by rw [hu]; exact presented)
      refine ⟨?_, ?_, ?_, ?_, ?_, ?_, ?_⟩
      · rw [finish_acc rests, hu]; rfl
      · rw [finish_arb rests, hu, ← op]; rfl
      · rw [finish_bus rests, hu, ← presented]; rfl
      · exact finish_caused hx (by rw [hu]; exact pulse hx) (caused_of_raise (e := s.ev) (by rw [hu]; rfl))
      · rw [finish_windows rests, hu]; rfl
      · rw [finish_link rests, hu]; rfl
      · rw [finish_sched rests, hu]; rfl
    cases write : a.isWrite with
    | true =>
        obtain ⟨acc, arb, bus, told, windows, link, sched⟩ := outcome .writeRefused rfl _ rfl
        rw [write, if_pos rfl] at run
        exact ⟨_, run, acc, arb, bus, fun _ => told, by simp, windows, link, sched⟩
    | false =>
        obtain ⟨acc, arb, bus, told, windows, link, sched⟩ := outcome .readRefused rfl _ rfl
        rw [write, if_neg (by simp)] at run
        exact ⟨_, run, acc, arb, bus, by simp, fun _ => told, windows, link, sched⟩

/-! ### The pieces of a journaled write -/

/-- Consecutive pieces of 16 bytes carry the whole. -/
theorem flatMap_pieces (k : Nat) (data : List Byte) (h : data.length ≤ 16 * k) :
    (List.range k).flatMap (fun j => (data.drop (16 * j)).take 16) = data := by
  induction k generalizing data with
  | zero => simpa using h
  | succ k ih =>
      have rest := ih (data.drop 16) (by rw [List.length_drop]; omega)
      have shift : (fun j => (data.drop (16 * (j + 1))).take 16) = fun j => ((data.drop 16).drop (16 * j)).take 16 := by
        funext j
        rw [List.drop_drop]
        congr 2
        omega
      rw [List.range_succ_eq_map, List.flatMap_cons, List.flatMap_map, shift, rest]
      simp

theorem writeRecords_length (id : StreamId) (q : Seq) (offset : Nat) (data : List Byte) :
    (writeRecords id q offset data).length = (data.length + 15) / 16 := by
  simp [writeRecords]

/-- Settles O14: the records are the pieces, numbered and placed by their index. -/
theorem writeRecordsArePieces : Obligations.WriteRecordsArePieces := by
  unfold Obligations.WriteRecordsArePieces
  intro id q offset data short
  refine ⟨writeRecords_length id q offset data, ?carried, ?piece⟩
  case carried =>
    simp only [writeRecords, List.flatMap_map, Option.getD_some]
    exact flatMap_pieces _ data (by omega)
  case piece =>
    intro j r hr
    have inside : j < (data.length + 15) / 16 := by
      rw [← writeRecords_length id q offset data]
      exact (List.getElem?_eq_some_iff.mp hr).1
    have position : pieceAt j ((data.length + 15) / 16) = if data.length ≤ 16 then .whole else if j = 0 then .first
        else if data.length ≤ 16 * (j + 1) then .last else .middle := by
      unfold pieceAt
      have one : (data.length + 15) / 16 = 1 ↔ data.length ≤ 16 := by omega
      have last : j + 1 = (data.length + 15) / 16 ↔ data.length ≤ 16 * (j + 1) := by omega
      simp only [one, last]
    simp only [writeRecords, List.getElem?_map, List.getElem?_range inside, Option.map_some, Option.some.injEq] at hr
    subst hr
    simp [position]

/-! ### Journaling -/

theorem bytesOf_length (n : Nat) (v : BitVec 512) : (bytesOf n v).length = n := by simp [bytesOf]

theorem bytes_length (h : a.isWrite = true) : a.bytes.length = a.size := by
  unfold Access.isWrite at h
  unfold Access.bytes
  cases ha : a.dir with
  | read => rw [ha] at h; cases h
  | write v => exact bytesOf_length _ _

/-- A well-formed access needs one record for each piece (R8, R49). -/
theorem slots_eq_pieces (h : a.formOk = true) : (a.size + 15) / 16 = a.slots := by
  unfold Access.formOk at h
  unfold Access.size Access.slots
  cases hs : a.shape with
  | single n =>
      simp only [hs, Bool.and_eq_true, Bool.or_eq_true, beq_iff_eq] at h
      dsimp only
      omega
  | burst n => rfl

theorem mergeInto_none {r : Record} {offset : Nat} {data : List Byte}
    (h : r.kind ≠ .write ∨ r.pos ≠ .whole ∨ r.status ≠ .ready ∨ r.sentBefore = true
      ∨ r.offset.toNat + r.length < offset ∨ offset + data.length < r.offset.toNat
      ∨ 16 < max (r.offset.toNat + r.length) (offset + data.length) - min r.offset.toNat offset
      ∨ min r.offset.toNat offset / 64
        ≠ (max (r.offset.toNat + r.length) (offset + data.length) - 1) / 64) :
    mergeInto r offset data = none := by
  have run : min r.offset.toNat offset
      + (max (r.offset.toNat + r.length) (offset + data.length) - min r.offset.toNat offset)
      = max (r.offset.toNat + r.length) (offset + data.length) := by omega
  unfold mergeInto
  dsimp only
  split
  · rw [if_neg]
    rintro ⟨kind, pos, status, sent, after, before, fits, block⟩
    simp only [oneBlock, run, beq_iff_eq] at block
    rcases h with h | h | h | h | h | h | h | h
    · exact h kind
    · exact h pos
    · exact h status
    · rw [sent] at h; cases h
    · omega
    · omega
    · omega
    · exact h block
  · rfl

/-- The grant of a write that needs records and holds their slots (R10). -/
theorem grantAccess_journaled {c : SourceCtx} (hp : s.acc.phase = .requesting a) (hw : a.isWrite = true)
    (hd : s.decode a.addr = some i) (hc : s.source? i = some c) (hn : c.needsRecords (s.offsetIn i a) = true)
    (hr : s.acc.resv = some { win := i, slots := a.slots }) :
    grantAccess s = beginAccess a (some { win := i, epoch := c.epoch }) (journalWrite a i c (rotate .access s)) := by
  have decode' : (rotate .access s).decode a.addr = some i := hd
  have needs : c.needsRecords ((rotate .access s).offsetIn i a) = true := hn
  have holds : slotsAgainst (rotate .access s).acc.resv i = a.slots := by
    change slotsAgainst s.acc.resv i = a.slots
    simp [hr, slotsAgainst]
  unfold grantAccess
  simp only [hp, decode', rotate_entry, source?_eq_some.mp hc, hw, if_true]
  simp [grantWrite, needs, holds]

/-- Settles O15: no merge is made where the test of R50 fails; then the reservation becomes the records. -/
theorem accessGrantJournals : Obligations.AccessGrantJournals := by
  unfold Obligations.AccessGrantJournals
  refine ⟨?noMerge, ?journals⟩
  case noMerge =>
    intro a c offset write fails
    unfold SourceCtx.mergeTail
    split
    · rename_i n r shape tail
      have size : a.bytes.length = n := by rw [bytes_length write]; simp [Access.size, shape]
      have test := fails n r shape tail
      rw [← size] at test
      rw [mergeInto_none test]
      rfl
    · rfl
  case journals =>
    intro s a i c ready phase form write decode ctx needs resv noMerge
    have run : exec .accessGrant s = .next (finish (beginAccess a (some { win := i, epoch := c.epoch })
        (journalWrite a i c (rotate .access s)))) := by
      rw [← grantAccess_journaled phase write decode ctx needs resv]
      exact congrArg _ (stepGrant_of_ready ready)
    have rests := finish_beginAccess_rests a (some { win := i, epoch := c.epoch })
      (journalWrite a i c (rotate .access s))
    have journaled : journalWrite a i c (rotate .access s) =
        { (rotate .access s).setRole i
            (.source (c.push (writeRecords (s.entry i).stream c.nextSeq (s.offsetIn i a) a.bytes))) with
          acc := { s.acc with resv := none } } := by
      have same : c.mergeTail a ((rotate .access s).offsetIn i a) = none := noMerge
      simp only [journalWrite, same]
      rfl
    have count : (writeRecords (s.entry i).stream c.nextSeq (s.offsetIn i a) a.bytes).length = a.slots := by
      rw [writeRecords_length, bytes_length write, slots_eq_pieces form]
    have after : (finish (beginAccess a (some { win := i, epoch := c.epoch })
        (journalWrite a i c (rotate .access s)))).source? i = some { c with
          queue := c.queue ++ writeRecords (s.entry i).stream c.nextSeq (s.offsetIn i a) a.bytes
          nextSeq := c.nextSeq + BitVec.ofNat 16 a.slots } := by
      rw [finish_source? rests, journaled]
      refine (setRole_source? (rotate .access s) i i _).trans ?_
      simp [SourceCtx.push, count]
    refine ⟨_, run, after, ?_, ?_, ?_, ?_, ?_, ?_, ?_, ?_⟩
    · simp only [State.recordCount, after, ctx, List.length_append, count]
    · rw [finish_acc rests]; rfl
    · rw [finish_acc rests, journaled]; rfl
    · rw [finish_arb rests, journaled, ← write]; rfl
    · intro j hj
      rw [finish_entry rests, journaled]
      exact setRole_entry_ne (rotate .access s) i _ hj
    · rw [finish_link rests, journaled]; rfl
    · rw [finish_sched rests, journaled]; rfl
    · rw [finish_bus rests, journaled]; rfl

/-! ### The merge -/

/-- The bytes of an overlay, position by position (R50). -/
theorem overlay_getD (older newer : List Byte) (lo at' start len p : Nat) (h1 : start ≤ p) (h2 : p < start + len) :
    (overlay older lo newer at' start len).getD (p - start) 0#8 =
      if at' ≤ p ∧ p < at' + newer.length then newer.getD (p - at') 0#8 else older.getD (p - lo) 0#8 := by
  have inside : p - start < len := by omega
  have back : start + (p - start) = p := by omega
  simp only [overlay, List.getD_eq_getElem?_getD, List.getElem?_map, List.getElem?_range inside, Option.map_some,
    Option.getD_some, back]

/-- Settles O16: the tail record takes the run of both, and the slot goes back. -/
theorem accessGrantMerges : Obligations.AccessGrantMerges := by
  unfold Obligations.AccessGrantMerges
  intro s a n i c r older ready phase shape form write decode ctx needs resv tail kind pos status sent data size
    after before fits block
  have slots : a.slots = 1 := by simp [Access.slots, shape]
  have length : a.bytes.length = n := by rw [bytes_length write]; simp [Access.size, shape]
  have low := r.offset.isLt
  generalize lo_def : min r.offset.toNat (s.offsetIn i a) = lo at fits block
  generalize hi_def : max (r.offset.toNat + r.length) (s.offsetIn i a + n) = hi at fits block
  have run : lo + (hi - lo) = hi := by omega
  generalize merged_def : ({ r with
    offset := BitVec.ofNat 32 lo, length := hi - lo,
    data := some (overlay older r.offset.toNat a.bytes (s.offsetIn i a) lo (hi - lo)) } : Record) = r'
  have merges : mergeInto r (s.offsetIn i a) a.bytes = some r' := by
    unfold mergeInto
    simp only [data, length, lo_def, hi_def]
    rw [if_pos ⟨kind, pos, status, sent, after, before, fits, by simp [oneBlock, run, block]⟩, ← merged_def]
  have merged : c.mergeTail a ((rotate .access s).offsetIn i a) =
      some { c with queue := c.queue.dropLast ++ [r'], merges := c.merges + 1#32 } := by
    change c.mergeTail a (s.offsetIn i a) = _
    simp only [SourceCtx.mergeTail, shape, tail, merges, Option.map_some]
  have granted := grantAccess_journaled phase write decode ctx needs (by rw [resv, slots])
  have journaled : journalWrite a i c (rotate .access s) = returnResv ((rotate .access s).setRole i
      (.source { c with queue := c.queue.dropLast ++ [r'], merges := c.merges + 1#32 })) := by
    simp only [journalWrite, merged]
  rw [journaled, returnResv_frame] at granted
  have step : exec .accessGrant s = .next (finish (grantAccess s)) := congrArg _ (stepGrant_of_ready ready)
  have rests : (grantAccess s).accessRests := by rw [granted]; exact finish_beginAccess_rests _ _ _
  have start : r'.offset.toNat = lo := by
    rw [← merged_def]
    simp only [BitVec.toNat_ofNat]
    omega
  refine ⟨_, _, r', step, ?_, rfl, ?_, ?_, ?_, ?_, ?_, ?_, ?_⟩
  · rw [finish_source? rests, granted]
    exact (setRole_source? (rotate .access s) i i _).trans (by simp)
  · rw [← merged_def]
  · rw [start]
  · rw [start, ← merged_def]; exact run
  · intro p hp hq
    have ends : r'.length = hi - lo := by rw [← merged_def]
    have bytes : r'.data.getD [] = overlay older r.offset.toNat a.bytes (s.offsetIn i a) lo (hi - lo) := by
      rw [← merged_def]; rfl
    rw [start] at hp hq ⊢
    rw [ends] at hq
    rw [bytes, overlay_getD _ _ _ _ _ _ _ hp hq, length]
  · rw [finish_acc rests, granted]; rfl
  · rw [finish_acc rests, granted]; rfl
  · intro j hj
    rw [finish_entry rests, granted]
    exact setRole_entry_ne (rotate .access s) i _ hj

end Sys2Proof.Machine
end

section
/-! SUPPORT. The memory's answer to an access, the grant to the apply engine, and the slot arbiter's offers: what is given
back, what the engines do with it, and what the end of the event then takes (R3, R15, R19, R46, R47, R132). -/

namespace Sys2Proof.Machine

variable {s : State} {a : Access} {i : WinIdx} {c : SourceCtx}

/-! ### The engines at the end of an event -/

theorem finish_seed (hr : s.resetLow = false) (h : s.accessRests) : (finish s).seed = (seedTake s).seed := by
  unfold finish
  rw [if_neg (by simp [hr]), judgeIfOver_frame, keepOffers_frame, applyChoose_frame, takePresented_of_busy h]

theorem finish_seed_of_busy (h : s.accessRests) (hs : s.seed.phase ≠ .idle ∨ s.seed.queue = []) :
    (finish s).seed = s.seed := by
  cases hr : s.resetLow with
  | true => unfold finish; rw [if_pos hr]
  | false => rw [finish_seed hr h, seedTake_of_busy hs]

theorem applyHead_congr {s t : State} (h : t.windows = s.windows) : t.applyHead = s.applyHead :=
  funext fun id => applyHead_of_windows h id

theorem applyChoose_apply_congr {s t : State} (hw : t.windows = s.windows) (ha : t.apply = s.apply) :
    (applyChoose t).apply = (applyChoose s).apply := by
  unfold applyChoose
  rw [ha, applyHead_congr hw]
  split
  · split
    · split
      · rfl
      · exact ha
    · exact ha
  · exact ha

theorem finish_apply (hr : s.resetLow = false) (h : s.accessRests) : (finish s).apply = (applyChoose s).apply := by
  unfold finish
  rw [if_neg (by simp [hr]), judgeIfOver_frame, keepOffers_frame, takePresented_of_busy h]
  refine applyChoose_apply_congr ?_ ?_ <;> rw [seedTake_frame]

theorem finish_apply_of_busy (h : s.accessRests) (hp : s.apply.phase ≠ .idle) : (finish s).apply = s.apply := by
  cases hr : s.resetLow with
  | true => unfold finish; rw [if_pos hr]
  | false => rw [finish_apply hr h]; simp [applyChoose, hp]

theorem finish_apply_of_rests (h : s.accessRests) (hp : s.applyRests = true) : (finish s).apply = s.apply := by
  cases hr : s.resetLow with
  | true => unfold finish; rw [if_pos hr]
  | false => rw [finish_apply hr h, applyChoose_of_rests hp]

/-- What beginning a chunk of a source stream leaves of the seed engine (R67). -/
theorem beginChunk_keeps (h : (s.source? i).isSome = true) :
    (beginChunk i s).seed.active = s.seed.active ∧ (beginChunk i s).seed.queue = s.seed.queue
      ∧ (beginChunk i s).seed.chunkCount = s.seed.chunkCount ∧ (beginChunk i s).seed.flight = s.seed.flight := by
  obtain ⟨c, hc⟩ := Option.isSome_iff_exists.mp h
  unfold beginChunk
  split
  · simp
  · unfold tryChunk
    rw [hc]
    dsimp only
    split <;> simp

/-- The IDLE engine takes the head of the queue (R66). -/
theorem seedTake_head {n : WinIdx} {rest : List WinIdx} (hp : s.seed.phase = .idle) (hq : s.seed.queue = n :: rest)
    (h : (s.source? n).isSome = true) :
    (seedTake s).seed.active = some n ∧ (seedTake s).seed.queue = rest ∧ (seedTake s).seed.chunkCount = 0
      ∧ (seedTake s).seed.flight = s.seed.flight := by
  unfold seedTake
  simp only [hp, hq]
  exact beginChunk_keeps (s := { s with seed := { s.seed with active := some n, chunkCount := 0, queue := rest } }) h

theorem seedTake_flight (s : State) : (seedTake s).seed.flight = s.seed.flight := by
  unfold seedTake
  split
  · unfold beginChunk
    split
    · rfl
    · unfold tryChunk
      split
      · dsimp only; split <;> rfl
      · rfl
  · rfl

/-! ### A fault and what it tells -/

theorem faultStream_acc (h : s.source? i = some c) (r : FaultReason) : (faultStream i r s).acc = s.acc.discard i := by
  rw [faultStream_eq h]; rfl

theorem faultStream_link (h : s.source? i = some c) (r : FaultReason) : (faultStream i r s).link = s.link := by
  rw [faultStream_eq h]; rfl

theorem faultStream_caused (h : s.source? i = some c) (r : FaultReason) :
    (faultStream i r s).caused .streamFault = true :=
  caused_of_raise (by rw [faultStream_eq h]; rfl)

theorem faultStream_noticed (h : s.source? i = some c) (r : FaultReason) :
    (faultStream i r s).noticed (s.entry i).stream = true :=
  noticed_of_addNotice (by rw [faultStream_eq h]; exact EventUnit.raise_grows _ _)

theorem faultStream_accessRests (h : s.source? i = some c) (r : FaultReason) (ha : s.accessRests) :
    (faultStream i r s).accessRests :=
  accessRests_of_discard ha (faultStream_acc h r) faultStream_sourceLocal_bus
where
  faultStream_sourceLocal_bus : (faultStream i r s).bus = s.bus :=
    (faultStream_sourceLocal (i := i) (s := s) r).bus

/-! ### The answer to an access -/

theorem answerAccess_ok {op : MemOp} {j : Option Journaled} (hop : s.arb.op = some op)
    (hp : s.acc.phase = .granted a j) (hq : op.requester = .access) (data : BitVec 512) :
    answerAccess true data s = respond true (if a.isWrite then [] else bytesOf a.size data) (freePort s) := by
  simp [answerAccess, hop, hp, hq]

theorem answerAccess_error {op : MemOp} {j : Option Journaled} (hop : s.arb.op = some op)
    (hp : s.acc.phase = .granted a j) (hq : op.requester = .access) (data : BitVec 512) :
    answerAccess false data s = respond false []
      (j.elim (raise .memoryError (freePort s)) fun j => journaledError j (raise .memoryError (freePort s))) := by
  cases j <;> simp [answerAccess, hop, hp, hq]

theorem journaledError_grows (j : Journaled) (s : State) : s.ev.Grows (journaledError j s).ev := by
  unfold journaledError
  split
  · split
    · exact (faultStream_sourceLocal _).grows
    · exact EventUnit.Grows.refl _
  · exact EventUnit.Grows.refl _

theorem journaledError_bus (j : Journaled) (s : State) : (journaledError j s).bus = s.bus := by
  unfold journaledError
  split
  · split
    · exact (faultStream_sourceLocal (i := j.win) (s := s) .memoryError).bus
    · rfl
  · rfl

/-- Settles O17: the response is given and the unit is IDLE; a fault of the write's stream stands besides. -/
theorem accessAnswered : Obligations.AccessAnswered := by
  unfold Obligations.AccessAnswered
  refine ⟨?late, ?answered⟩
  case late =>
    intro s data calm
    have still := finish_of_still (calm_still calm)
    refine ⟨?_, ?_, ?_⟩
    · change Host.Outcome.next (outside (fun s => s) s) = _
      rw [outside_of_calm calm, still]
    · change Host.Outcome.next (outside (fun s => s) s) = _
      rw [outside_of_calm calm, still]
    · change Host.Outcome.next (outside (fun s => s) s) = _
      rw [outside_of_calm calm, still]
  case answered =>
    intro s a j op data calm phase hop requester
    have runOk : exec (.accessAnswer .ok data) s = .next (finish (respond true
        (if a.isWrite then [] else bytesOf a.size data) (freePort s))) := by
      change Host.Outcome.next (outside (answerAccess true data) s) = _
      rw [outside_of_calm calm, answerAccess_ok hop phase requester]
    have runError : exec (.accessAnswer .error data) s = .next (finish (respond false []
        (j.elim (raise .memoryError (freePort s)) fun j => journaledError j (raise .memoryError (freePort s))))) := by
      change Host.Outcome.next (outside (answerAccess false data) s) = _
      rw [outside_of_calm calm, answerAccess_error hop phase requester]
    generalize errored : (j.elim (raise .memoryError (freePort s))
      fun j => journaledError j (raise .memoryError (freePort s))) = u at runError
    have bus : u.bus = s.bus := by
      rw [← errored]
      cases j with
      | none => rfl
      | some j => exact journaledError_bus j _
    have low : u.resetLow = s.resetLow := by
      rw [← errored]
      cases j with
      | none => rfl
      | some j => exact (journaledError_kept (s := raise .memoryError (freePort s)) j).resetLow
    refine ⟨?responses, ?done, ?failed⟩
    case responses =>
      intro ok
      have low' := calm_resetLow calm
      cases ok with
      | true =>
          obtain ⟨rs, short, empty, given⟩ := finish_bus_of_idle
            (s := respond true (if a.isWrite then [] else bytesOf a.size data) (freePort s))
            (show s.resetLow = false from low') rfl
          refine ⟨_, rs, runOk, ?_, short, empty⟩
          rw [given]
          cases write : a.isWrite <;> rfl
      | false =>
          obtain ⟨rs, short, empty, given⟩ := finish_bus_of_idle (s := respond false [] u)
            (show u.resetLow = false from low.trans low') rfl
          refine ⟨_, rs, runError, ?_, short, fun h => empty ((congrArg _ bus).trans h)⟩
          rw [given]
          change Bus.mk none (rs ++ { ok := false, data := [] } :: u.bus.responses) = _
          rw [bus]
          rfl
    case done =>
      intro presented
      refine ⟨_, runOk, ?_⟩
      rw [finish_of_still_windows (t := respond true (if a.isWrite then [] else bytesOf a.size data) (freePort s))
        (calm_still calm) rfl (.inr presented) rfl rfl rfl rfl, judgeIfOver_frame]
      rfl
    case failed =>
      intro presented
      have rests : (respond false [] u).accessRests := .inr ((congrArg _ bus).trans presented)
      have memory : u.caused .memoryError = true := by
        have raised : (raise .memoryError (freePort s)).caused .memoryError = true := caused_of_raise (e := s.ev) rfl
        rw [← errored]
        cases j with
        | none => exact raised
        | some j => exact (journaledError_grows j _).caused raised
      have cond : u.ev.cond = s.ev.cond := by
        rw [← errored]
        cases j with
        | none => rfl
        | some j => exact (journaledError_grows j (raise .memoryError (freePort s))).cond
      have pulse : ∀ x : Cause, x.isPulse = true → (respond false [] u).ev.cond &&& x.bit = 0#13 := fun x hx => by
        change u.ev.cond &&& x.bit = 0#13
        rw [cond]
        exact pulse_of_still (calm_still calm) hx
      refine ⟨_, runError, ?_, ?_, ?_, ?_, ?_⟩
      · rw [finish_acc rests]; rfl
      · rw [finish_bus rests]
        change Bus.mk u.bus.presented ({ ok := false, data := [] } :: u.bus.responses) = _
        rw [bus, presented]
      · exact finish_caused rfl (pulse _ rfl) memory
      · intro none
        rw [finish_windows rests, ← show u.windows = s.windows from by rw [← errored, none]; rfl]
        rfl
      · intro i c ctx journal journals
        have ctx' : (raise .memoryError (freePort s)).source? i = some c := ctx
        have fault : u = faultStream i .memoryError (raise .memoryError (freePort s)) := by
          rw [← errored, journal]
          simp [journaledError, ctx', journals]
        obtain ⟨d, hd, state, reason, diverged, queue, _, _, _, _, epoch, _⟩ := faultStream_source? ctx' .memoryError
        refine ⟨d, ?_, state, reason, diverged, queue, epoch, ?_, ?_, ?_⟩
        · rw [finish_source? rests, ← hd, ← fault]; rfl
        · refine finish_caused rfl (pulse _ rfl) ?_
          have told := faultStream_caused ctx' .memoryError
          rw [← fault] at told
          exact told
        · refine finish_noticed ?_
          have told := faultStream_noticed ctx' .memoryError
          rw [← fault] at told
          exact told
        · intro k hk
          rw [finish_entry rests]
          change u.entry k = s.entry k
          rw [fault]
          exact (faultStream_sourceLocal (i := i) (s := raise .memoryError (freePort s)) .memoryError).others k hk

/-! ### The grant to the apply engine -/

theorem markUnderOp_eq (rs : List RecBody) (hs : List Held) :
    markUnderOp rs hs = hs.map fun h => if h.body.seq ∈ rs.map (·.seq) then { h with underOp := true } else h := by
  unfold markUnderOp
  refine List.map_congr_left fun h _ => ?_
  have same : (rs.any fun x => x.seq == h.body.seq) = true ↔ h.body.seq ∈ rs.map (·.seq) := by
    simp [List.any_eq_true, List.mem_map]
  simp only [same]

/-- Settles O23: the request found in PORT_WAIT is granted, and the engine is WRITING. -/
theorem applyGrant : Obligations.ApplyGrant := by
  unfold Obligations.ApplyGrant
  intro s v r rest c ready served recs ctx
  obtain ⟨_, _, _, due, access, _⟩ := readyToGrant_iff.mp ready
  have phase : s.apply.phase = .portWait := by simpa [State.requests] using (grantDue_some due).2
  have ctx' : (rotate .apply s).sink? v.win = some c := ctx
  have granted : grantApply s = beginOp
      { requester := .apply, addr := (s.entry v.win).base + r.offset, isWrite := true,
        len := ((r :: rest).flatMap (·.data)).length, bytes := (r :: rest).flatMap (·.data) }
      { (rotate .apply s).setRole v.win (.sink { c with held := markUnderOp v.recs c.held }) with
        apply := { s.apply with phase := .writing } } := by
    simp only [grantApply, phase, served, modSink_some _ ctx', recs]
    simp
    rw [show (rotate .apply s).apply.served = some v from served]
    rfl
  have step : exec .applyGrant s = .next (finish (grantApply s)) := congrArg _ (stepGrant_of_ready ready)
  have rests : (grantApply s).accessRests := by rw [granted]; exact access
  refine ⟨_, { c with held := markUnderOp v.recs c.held }, step, ?_, rfl, markUnderOp_eq _ _, ?_, ?_, ?_, ?_, ?_⟩
  · rw [finish_sink? rests, granted]
    exact (setRole_sink? (rotate .apply s) v.win v.win _).trans (by simp)
  · rw [finish_apply_of_busy rests (by rw [granted]; simp [beginOp]), granted]; rfl
  · rw [finish_arb rests, granted]; rfl
  · rw [finish_link rests, granted]; rfl
  · rw [finish_sched rests, granted]; rfl
  · intro j hj
    rw [finish_entry rests, granted]
    exact setRole_entry_ne (rotate .apply s) v.win _ hj

/-! ### The slot arbiter's offers -/

theorem tryChunk_some (h : s.source? i = some c) : tryChunk i s =
    if s.reserveOk i (chunkSlots (s.entry i) c) then
      { s with seed := { s.seed with phase := .portWait, resv := some { win := i, slots := chunkSlots (s.entry i) c } } }
    else { s with seed := { s.seed with phase := .slotWait } } := by
  simp only [tryChunk, h]

/-- SEED_END joins the tail of a source stream's queue (R70). -/
theorem putSeedEnd_eq (h : s.source? i = some c) : putSeedEnd i s =
    { s.setRole i (.source (c.push [seedEndRecord (s.entry i).stream c.nextSeq (s.entry i).length])) with
      seed := { s.seed.drop with flight := none } } := by
  unfold putSeedEnd
  rw [modSource_some _ h]
  rfl

/-- After the held write's offer none is due to it in that event (R47). -/
theorem stepOfferHeld_offers (h : s.heldOfferDue = true) : (stepOfferHeld s).heldOfferDue = false := by
  have held : s.isHeld = true := by
    simp only [State.heldOfferDue, Bool.and_eq_true] at h
    exact h.2
  have busy : (offerHeld s).acc.phase ≠ .idle ∧ (offerHeld s).offers.held = false := by
    unfold State.isHeld at held
    unfold offerHeld
    dsimp only
    cases hp : s.acc.phase with
    | waitSlots a i =>
        dsimp only
        split <;> simp [requestPort, hp]
    | _ => rw [hp] at held; cases held
  have seedTake_held : ∀ t : State, (seedTake t).offers.held = t.offers.held := by
    intro t
    unfold seedTake
    split
    · unfold beginChunk
      split
      · rfl
      · unfold tryChunk
        split
        · dsimp only; split <;> rfl
        · rfl
    · rfl
  have none : (finish (offerHeld s)).offers.held = false := by
    unfold finish
    split
    · exact busy.2
    · rw [takePresented_of_busy (.inl busy.1), judgeIfOver_frame, keepOffers_frame]
      change State.heldOfferDue _ = false
      unfold State.heldOfferDue
      rw [applyChoose_frame]
      change ((seedTake (offerHeld s)).offers.held && _) = false
      rw [seedTake_held, busy.2]
      rfl
  have made : stepOfferHeld s = finish (offerHeld s) := by simp [stepOfferHeld, h]
  rw [made]
  simp [State.heldOfferDue, none]

/-- Settles O22: each waiter takes its test again, the held write first. -/
theorem slotOffers : Obligations.SlotOffers := by
  unfold Obligations.SlotOffers
  refine ⟨?held, ?first, ?seed⟩
  case held =>
    intro s a i low due phase
    have step : exec .slotOfferHeldWrite s = .next (finish (offerHeld s)) := by
      change Host.Outcome.next (stepOfferHeld s) = _
      simp [stepOfferHeld, due]
    have offered : offerHeld s = if s.reserveOk i a.slots then
        requestPort a (some { win := i, slots := a.slots }) { s with offers := { s.offers with held := false } }
        else { s with offers := { s.offers with held := false } } := by
      simp only [offerHeld, phase]
      rfl
    refine ⟨_, step, ?_⟩
    rw [offered]
    split
    · have rests := requestPort_accessRests a (some { win := i, slots := a.slots })
        { s with offers := { s.offers with held := false } }
      rw [finish_windows rests, finish_acc rests]
      exact ⟨rfl, rfl⟩
    · have rests : State.accessRests { s with offers := { s.offers with held := false } } := .inl (by simp [phase])
      rw [finish_windows rests, finish_acc rests]
      exact ⟨rfl, rfl⟩
  case first =>
    intro s u due run
    have u_eq : u = stepOfferHeld s := by
      change Host.Outcome.next (stepOfferHeld s) = .next u at run
      injection run with e
      exact e.symm
    have again : stepOfferHeld u = u := by
      have none := stepOfferHeld_offers due
      rw [← u_eq] at none
      simp [stepOfferHeld, none]
    change Host.Outcome.next (stepOfferSeed s) = .next (stepOfferSeed u)
    unfold stepOfferSeed
    rw [again, u_eq]
  case seed =>
    intro s i c low noHeld due access active ctx
    have step : exec .slotOfferSeed s = .next (finish (offerSeed s)) := by
      change Host.Outcome.next (stepOfferSeed s) = _
      simp [stepOfferSeed, stepOfferHeld, noHeld, due]
    have ready : s.accessRests := by
      by_cases idle : s.acc.phase = .idle
      · exact .inr (access idle)
      · exact .inl idle
    generalize offered : ({ s with offers := { s.offers with seed := false } } : State) = u at *
    have seed : u.seed = s.seed := by rw [← offered]
    have ctx' : u.source? i = some c := by rw [← offered]; exact ctx
    have entry : ∀ j, u.entry j = s.entry j := by intro j; rw [← offered]; rfl
    have acc : u.acc = s.acc := by rw [← offered]
    have bus : u.bus = s.bus := by rw [← offered]
    have windows : u.windows = s.windows := by rw [← offered]
    have test : ∀ k, u.reserveOk i k = s.reserveOk i k := by intro k; rw [← offered]; rfl
    refine ⟨?chunk, ?ends⟩
    case chunk =>
      intro phase
      have tried : offerSeed s = if s.reserveOk i (chunkSlots (s.entry i) c) then
          { u with seed := { s.seed with
            phase := .portWait, resv := some { win := i, slots := chunkSlots (s.entry i) c } } }
          else { u with seed := { s.seed with phase := .slotWait } } := by
        simp only [offerSeed, offered, seed, active, phase, tryChunk_some ctx', entry, test]
        simp
      refine ⟨_, step, ?_⟩
      rw [tried]
      split
      · rename_i ok
        have rests : State.accessRests { u with seed := { s.seed with
            phase := .portWait, resv := some { win := i, slots := chunkSlots (s.entry i) c } } } := by
          rw [← offered]; exact ready
        rw [finish_windows rests, finish_acc rests, finish_seed_of_busy rests (.inl (by simp))]
        exact ⟨windows, acc, rfl⟩
      · have rests : State.accessRests { u with seed := { s.seed with phase := .slotWait } } := by
          rw [← offered]; exact ready
        rw [finish_windows rests, finish_acc rests, finish_seed_of_busy rests (.inl (by simp))]
        exact ⟨windows, acc, by rw [← phase]⟩
    case ends =>
      intro phase resv flight
      refine ⟨_, step, ?_⟩
      have tried : offerSeed s = trySeedEnd i u := by
        simp only [offerSeed, offered, active, phase]
        simp
      rw [tried, trySeedEnd, test]
      cases ok : s.reserveOk i 1 with
      | false =>
          rw [if_neg (by simp)]
          have rests : State.accessRests { u with seed := { u.seed with
              phase := .endWait, active := some i, flight := none, resv := none } } := by
            rw [← offered]; exact ready
          rw [finish_windows rests, finish_acc rests, finish_seed_of_busy rests (.inl (by simp))]
          refine ⟨acc, fun _ => ⟨windows, ?_⟩, by simp⟩
          rw [seed, ← phase, ← active, ← resv, ← flight]
      | true =>
          have put : putSeedEnd i u = { u.setRole i (.source { c with
              nextSeq := c.nextSeq + 1#16
              queue := c.queue ++ [{ stream := (s.entry i).stream, seq := c.nextSeq, kind := .seedEnd, pos := .whole,
                                     offset := (s.entry i).length, length := 0, data := some [], tag := none,
                                     status := .ready, sentBefore := false }] }) with
              seed := { s.seed.drop with flight := none } } := by
            rw [putSeedEnd_eq ctx', seed, entry]
            rfl
          rw [if_pos rfl, put]
          generalize hd : (Role.source { c with
              nextSeq := c.nextSeq + 1#16
              queue := c.queue ++ [{ stream := (s.entry i).stream, seq := c.nextSeq, kind := .seedEnd, pos := .whole,
                                     offset := (s.entry i).length, length := 0, data := some [], tag := none,
                                     status := .ready, sentBefore := false }] }) = d
          have rests : State.accessRests { u.setRole i d with seed := { s.seed.drop with flight := none } } := by
            rw [← offered]; exact ready
          have high : State.resetLow { u.setRole i d with seed := { s.seed.drop with flight := none } } = false := by
            rw [← offered]; exact low
          refine ⟨(finish_acc rests).trans acc, by simp, fun _ => ⟨?_, ?_, ?_⟩⟩
          · rw [finish_windows rests, ← offered]; rfl
          · intro empty
            rw [finish_seed_of_busy rests (.inr empty)]
            simp [SeedEngine.drop, empty]
          · intro n rest queue source
            rw [finish_seed high rests]
            have some : (State.source? { u.setRole i d with seed := { s.seed.drop with flight := none } } n).isSome
                = true := by
              change ((u.setRole i d).source? n).isSome = true
              rw [setRole_source?, ← hd]
              split
              · rfl
              · rw [source?_of_windows windows]; exact source
            obtain ⟨h1, h2, h3, _⟩ := seedTake_head
              (s := { u.setRole i d with seed := { s.seed.drop with flight := none } }) rfl queue some
            exact ⟨h1, h2, h3⟩

end Sys2Proof.Machine
end

section
/-! SUPPORT. The seed engine: the grant of a chunk read, with the write it may bring back to the reservation test, and the
memory's answers (R11, R67 to R71, R76, R77). -/

namespace Sys2Proof.Machine

variable {s : State} {i : WinIdx} {c : SourceCtx}

/-! ### Claims -/

/-- The slots a stream's records and reservations take (R39, R44). -/
def State.claims (s : State) (i : WinIdx) : Nat :=
  s.recordCount i + s.reservedCount i

/-- Counts add window by window. -/
theorem sum_windows_add (f g : WinIdx → Nat) :
    (allWindows.map fun j => f j + g j).sum = (allWindows.map f).sum + (allWindows.map g).sum := by
  simp only [allWindows, List.map_cons, List.map_nil, List.sum_cons, List.sum_nil]
  omega

/-- One window counts `k`, the others nothing. -/
theorem sum_windows_at (i : WinIdx) (k : Nat) : (allWindows.map fun j => if j = i then k else 0).sum = k :=
  match i with
  | 0 | 1 | 2 | 3 | 4 | 5 | 6 | 7 => by simp [allWindows]

/-- A reservation is one against exactly one window. -/
theorem sum_slotsAgainst (r : Option Resv) : (allWindows.map (slotsAgainst r)).sum = slotsOf r := by
  cases r with
  | none => rfl
  | some r =>
      obtain ⟨w, k⟩ := r
      have each : slotsAgainst (some { win := w, slots := k }) = fun j => if j = w then k else 0 :=
        funext fun j => by simp only [slotsAgainst, eq_comm]
      rw [each]
      exact sum_windows_at w k

/-- The used slots are what the windows claim (R39, R45). -/
theorem usedSlots_eq_sum_claims (s : State) : s.usedSlots = (allWindows.map s.claims).sum := by
  have split : (allWindows.map s.claims).sum = (allWindows.map s.recordCount).sum
      + ((allWindows.map (slotsAgainst s.acc.resv)).sum + (allWindows.map (slotsAgainst s.seed.resv)).sum) := by
    rw [← sum_windows_add, ← sum_windows_add]
    rfl
  rw [split, sum_slotsAgainst, sum_slotsAgainst, State.usedSlots, Nat.add_assoc]

theorem freeCount_of_claims {s t : State} (h : ∀ j, t.claims j = s.claims j) : t.freeCount = s.freeCount := by
  have same : t.claims = s.claims := funext h
  rw [State.freeCount, usedSlots_eq_sum_claims, same, ← usedSlots_eq_sum_claims, State.freeCount]

/-- The reservation test depends on what the windows claim and on the QUOTA (R44). -/
theorem reserveOk_of_claims {s t : State} (h : ∀ j, t.claims j = s.claims j)
    (hq : (t.entry i).quota = (s.entry i).quota) (k : Nat) : t.reserveOk i k = s.reserveOk i k := by
  have one : t.recordCount i + t.reservedCount i = s.recordCount i + s.reservedCount i := h i
  simp only [State.reserveOk, freeCount_of_claims h, one, hq]

theorem claims_congr {s t : State} {j : WinIdx} (hr : t.recordCount j = s.recordCount j)
    (ha : t.acc.resv = s.acc.resv) (hs : t.seed.resv = s.seed.resv) : t.claims j = s.claims j := by
  simp only [State.claims, State.reservedCount, hr, ha, hs]

/-- Replacing a source context leaves the decode of addresses. -/
theorem Kept.decode {s t : State} (h : Kept s t) (addr : Word) : t.decode addr = s.decode addr :=
  decode_congr (fun j => ⟨(h.config j).2.2.2.2.2.2.2, (h.config j).1, (h.config j).2.1⟩) addr

theorem Kept.lookup {s t : State} (h : Kept s t) (id : StreamId) : t.lookup id = s.lookup id :=
  lookup_congr (fun j => ⟨(h.config j).2.2.2.2.2.2.2, (h.config j).2.2.1⟩) id

/-! ### The grant of a chunk read -/

/-- The part with a chunk's records, cursor and read in place, before the access unit looks at the cursor (R68). -/
def State.chunkRead (s : State) (i : WinIdx) (c : SourceCtx) (r : Resv) : State :=
  { s.setRole i (.source { c.push (chunkRecords (s.entry i).stream c.nextSeq c.cursor) with cursor := c.cursor + 64 })
    with
    arb := { order := s.arb.order.filter (· ≠ .seed) ++ [.seed]
             op := some { requester := .seed, addr := (s.entry i).base + BitVec.ofNat 32 c.cursor, isWrite := false,
                          len := 64, bytes := [] } }
    seed := { phase := .reading, active := some i, chunkCount := min (s.seed.chunkCount + 1) 16,
              resv := if r.slots = 5 then some { win := i, slots := 1 } else none,
              flight := some { win := i, first := c.nextSeq, fifth := r.slots == 5, orphan := false },
              queue := s.seed.queue } }

theorem grantSeed_eq {r : Resv} (hp : s.seed.phase = .portWait) (ha : s.seed.active = some i)
    (hr : s.seed.resv = some r) (hc : s.source? i = some c) :
    grantSeed s = cursorAdvanced (s.chunkRead i c r) := by
  simp only [grantSeed, hp, ha, hr, hc, State.chunkRead]
  simp only [rotate, beginOp, State.setRole, State.setEntry, State.entry, ha, beq_iff_eq]
  rfl

section ChunkRead

variable (r : Resv)

theorem chunkRead_source? (j : WinIdx) : (s.chunkRead i c r).source? j =
    if j = i then some { c.push (chunkRecords (s.entry i).stream c.nextSeq c.cursor) with cursor := c.cursor + 64 }
    else s.source? j :=
  setRole_source? s i j _

theorem chunkRead_entry_ne {j : WinIdx} (h : j ≠ i) : (s.chunkRead i c r).entry j = s.entry j :=
  setRole_entry_ne s i _ h

theorem chunkRead_config (j : WinIdx) : ((s.chunkRead i c r).entry j).base = (s.entry j).base
    ∧ ((s.chunkRead i c r).entry j).policy = (s.entry j).policy
    ∧ ((s.chunkRead i c r).entry j).quota = (s.entry j).quota
    ∧ ((s.chunkRead i c r).entry j).stream = (s.entry j).stream
    ∧ ((s.chunkRead i c r).entry j).length = (s.entry j).length := by
  have entry : (s.chunkRead i c r).entry j = if j = i then _ else s.entry j := setRole_entry s i j _
  rw [entry]
  split
  · rename_i h; subst h; simp
  · simp

theorem chunkRead_decode (hc : s.source? i = some c) (addr : Word) : (s.chunkRead i c r).decode addr = s.decode addr :=
  (setSource_kept hc { c.push (chunkRecords (s.entry i).stream c.nextSeq c.cursor) with cursor := c.cursor + 64 }).decode
    addr

/-- The four records stand in the slots that were reserved for them (R68). -/
theorem chunkRead_claims (hc : s.source? i = some c) (hr : s.seed.resv = some r) (hw : r.win = i)
    (hk : r.slots = 4 ∨ r.slots = 5) (j : WinIdx) : (s.chunkRead i c r).claims j = s.claims j := by
  simp only [State.claims, State.recordCount, State.reservedCount, chunkRead_source?, hr]
  by_cases hj : j = i
  · subst hj
    rcases hk with k | k <;>
      simp [hc, State.chunkRead, SourceCtx.push, chunkRecords, slotsAgainst, k, hw] <;> omega
  · have other : i ≠ j := fun h => hj h.symm
    rcases hk with k | k <;> simp [hj, State.chunkRead, slotsAgainst, k, hw, other]

end ChunkRead

/-- A write that waits for the port, is asked for records and holds none takes the reservation test again (R11). -/
theorem cursorAdvanced_of_needed {a : Access} (hp : s.acc.phase = .requesting a) (hw : a.isWrite = true)
    (hd : s.decode a.addr = some i) (hc : s.source? i = some c) (hn : c.needsRecords (s.offsetIn i a) = true)
    (hr : s.acc.resv = none) : cursorAdvanced s = reserveWrite a i c s := by
  simp [cursorAdvanced, hp, hw, hd, hc, hn, hr]

/-- Any other access is not affected by a cursor (R11). -/
theorem cursorAdvanced_of_unneeded (h : ∀ a, s.acc.phase = .requesting a → a.isWrite = false ∨ s.acc.resv ≠ none ∨
    ∀ j, s.decode a.addr = some j → ∀ d, s.source? j = some d → d.needsRecords (s.offsetIn j a) = false) :
    cursorAdvanced s = s := by
  unfold cursorAdvanced
  split
  · rename_i a phase
    split
    · rename_i write
      split
      · rename_i j decode
        split
        · rename_i d ctx
          rcases h a phase with h | h | h
          · simp [write] at h
          · simp [h]
          · simp [h j decode d ctx]
        · rfl
      · rfl
    · rfl
  · rfl

theorem SeedEngine.discard_reading {e : SeedEngine} {f : Flight} (hp : e.phase = .reading) (ha : e.active = some i)
    (hf : e.flight = some f) (hw : f.win = i) : e.discard i = { e with
      active := none, chunkCount := 0, resv := none, flight := some { f with fifth := false, orphan := true }
      queue := e.queue.filter (· ≠ i) } := by
  simp [SeedEngine.discard, SeedEngine.leaveQueue, hf, hw, ha, hp]

/-- Settles O18: the read begins in either case; what the passed cursor does to a waiting write is the reservation test,
on a journal whose claims are as before. -/
theorem seedGrant : Obligations.SeedGrant := by
  have granted : ∀ {s : State} {i : WinIdx} {c : SourceCtx} {r : Resv}, s.readyToGrant .seed = true →
      s.seed.active = some i → s.seed.resv = some r → s.source? i = some c →
      exec .seedGrant s = .next (finish (cursorAdvanced (s.chunkRead i c r))) := by
    intro s i c r ready active resv ctx
    have phase : s.seed.phase = .portWait := by
      simpa [State.requests] using (grantDue_some (readyToGrant_iff.mp ready).2.2.2.1).2
    rw [← grantSeed_eq phase active resv ctx]
    exact congrArg _ (stepGrant_of_ready ready)
  unfold Obligations.SeedGrant
  refine ⟨?read, ?passed⟩
  case read =>
    intro s i c r ready active resv ctx other
    have run := granted ready active resv ctx
    have same : cursorAdvanced (s.chunkRead i c r) = s.chunkRead i c r := by
      refine cursorAdvanced_of_unneeded fun a phase => ?_
      rcases other a phase with h | h | h
      · exact .inl h
      · exact .inr (.inl h)
      · refine .inr (.inr fun j decode d source => ?_)
        rw [chunkRead_decode r ctx] at decode
        have offset : (s.chunkRead i c r).offsetIn j a = s.offsetIn j a := by
          simp only [State.offsetIn, (chunkRead_config r j).1]
        rw [chunkRead_source?] at source
        rw [offset]
        by_cases hj : j = i
        · have unneeded := h j decode c (by rw [hj]; exact ctx)
          rw [if_pos hj, Option.some.injEq] at source
          rw [if_pos hj] at unneeded
          rw [← source]
          exact unneeded
        · rw [if_neg hj] at source
          have unneeded := h j decode d source
          rw [if_neg hj] at unneeded
          exact unneeded
    rw [same] at run
    have rests : (s.chunkRead i c r).accessRests := (readyToGrant_iff.mp ready).2.2.2.2.1
    refine ⟨_, run, ?_, ?_, ?_, ?_, ?_, ?_, ?_⟩
    · rw [finish_source? rests, chunkRead_source?, if_pos rfl]
      rfl
    · rw [finish_seed_of_busy rests (.inl (by simp [State.chunkRead]))]
      rfl
    · rw [finish_arb rests]; rfl
    · rw [finish_acc rests]; rfl
    · rw [finish_link rests]; rfl
    · rw [finish_sched rests]; rfl
    · intro j hj
      rw [finish_entry rests, chunkRead_entry_ne r hj]
  case passed =>
    intro s i c k a ready active resv size ctx seeding phase noResv write decode passed
    generalize hr : ({ win := i, slots := k } : Resv) = r at resv
    have claims : ∀ j, (s.chunkRead i c r).claims j = s.claims j :=
      chunkRead_claims r ctx resv (by rw [← hr]) (by rw [← hr]; exact size)
    have test : (s.chunkRead i c r).reserveOk i a.slots = s.reserveOk i a.slots :=
      reserveOk_of_claims claims (chunkRead_config r i).2.2.1 _
    have source : (s.chunkRead i c r).source? i =
        some { c.push (chunkRecords (s.entry i).stream c.nextSeq c.cursor) with cursor := c.cursor + 64 } := by
      rw [chunkRead_source?, if_pos rfl]
    generalize hd : ({ c.push (chunkRecords (s.entry i).stream c.nextSeq c.cursor) with
      cursor := c.cursor + 64 } : SourceCtx) = d at source
    have needs : d.needsRecords ((s.chunkRead i c r).offsetIn i a) = true := by
      have offset : (s.chunkRead i c r).offsetIn i a = s.offsetIn i a := by
        simp only [State.offsetIn, (chunkRead_config r i).1]
      rw [offset, ← hd]
      simp [SourceCtx.needsRecords, SourceCtx.push, seeding, passed]
    have advanced : cursorAdvanced (s.chunkRead i c r) = reserveWrite a i d (s.chunkRead i c r) :=
      cursorAdvanced_of_needed phase write ((chunkRead_decode r ctx _).trans decode) source needs noResv
    have run := granted ready active resv ctx
    rw [advanced, reserveWrite, test, if_pos needs, (chunkRead_config r i).2.1] at run
    refine ⟨?reserved, ?held, ?overflows⟩
    case reserved =>
      intro ok
      rw [if_pos ok] at run
      have rests := requestPort_accessRests a (some { win := i, slots := a.slots }) (s.chunkRead i c r)
      refine ⟨_, run, ?_, ?_⟩
      · rw [finish_acc rests]; rfl
      · rw [finish_seed_of_busy rests (.inl (by simp [requestPort, State.chunkRead]))]; rfl
    case held =>
      intro fails policy
      rw [fails, if_neg (by simp), policy] at run
      have rests : (holdWrite a i (s.chunkRead i c r)).accessRests := .inl (by simp [holdWrite])
      refine ⟨_, run, ?_, ?_⟩
      · rw [finish_acc rests]; rfl
      · rw [finish_seed_of_busy rests (.inl (by simp [holdWrite, State.chunkRead]))]; rfl
    case overflows =>
      intro fails policy
      rw [fails, if_neg (by simp), policy] at run
      have pulse : (s.chunkRead i c r).ev.cond &&& Cause.streamReseed.bit = 0#13 :=
        pulse_of_ready ready rfl
      have rests := requestPort_accessRests a none (reseed i (s.chunkRead i c r))
      have seed : (finish (requestPort a none (reseed i (s.chunkRead i c r)))).seed =
          { (s.chunkRead i c r).seed with
            active := none, chunkCount := 0, resv := none
            flight := some { win := i, first := c.nextSeq, fifth := false, orphan := true }
            queue := s.seed.queue.filter (· ≠ i) } := by
        have discarded : (requestPort a none (reseed i (s.chunkRead i c r))).seed =
            (s.chunkRead i c r).seed.discard i := reseed_seed source
        rw [SeedEngine.discard_reading (e := (s.chunkRead i c r).seed)
          (f := { win := i, first := c.nextSeq, fifth := r.slots == 5, orphan := false }) rfl rfl rfl rfl] at discarded
        rw [finish_seed_of_busy rests (.inl (by rw [discarded]; simp [State.chunkRead])), discarded]
        rfl
      obtain ⟨e, after, acc, queue, cursor, _, reseeds, reason, up, _, told, _, others⟩ :=
        overflow_outcome a pulse source
      refine ⟨_, e, run, after, acc, queue, cursor, ?_, reason, ?_, ?_, ?_, ?_, ?_, ?_, told, ?_⟩
      · rw [reseeds, ← hd]; rfl
      · intro link
        obtain ⟨state, epoch, _⟩ := up link
        exact ⟨state, by rw [epoch, ← hd]; rfl⟩
      · rw [seed]; rfl
      · rw [seed]
      · rw [seed]
      · rw [seed]
      · rw [finish_arb rests]
        exact congrArg Arbiter.op (reseed_sourceLocal (i := i) (s := s.chunkRead i c r)).arb
      · intro j hj
        rw [others j hj, chunkRead_entry_ne r hj]

end Sys2Proof.Machine
end

section
/-! SUPPORT. The memory's answers to a chunk read: the records filled and the walk gone on with, the walk ended, and the
answers that meet discarded records or come as ERROR (R66, R69 to R71, R76, R77). -/

namespace Sys2Proof.Machine

variable {s : State} {i : WinIdx} {c : SourceCtx} {f : Flight} {op : MemOp}

/-! ### The answer at a calm part -/

theorem exec_seedReadAnswer (h : s.calm = true) (hop : s.arb.op = some op) (hf : s.seed.flight = some f)
    (hq : op.requester = .seed) (ok : Bool) (data : BitVec 512) :
    exec (.seedReadAnswer (if ok then .ok else .error) data) s = .next (finish (seedAnswered f ok data (freePort s))) := by
  have answered : answerSeed ok data s = seedAnswered f ok data (freePort s) := by
    simp [answerSeed, hop, hf, hq]
  cases ok
  · change Host.Outcome.next (outside (answerSeed false data) s) = _
    rw [outside_of_calm h, answered]
  · change Host.Outcome.next (outside (answerSeed true data) s) = _
    rw [outside_of_calm h, answered]

/-- The part with the port free and the records of the read filled (R43, R69). -/
def State.filled (s : State) (f : Flight) (c : SourceCtx) (data : BitVec 512) : State :=
  (freePort s).setRole f.win (.source { c with queue := chunkStored f.first data c.queue })

section Filled

variable (data : BitVec 512)

theorem filled_source? (j : WinIdx) : (s.filled f c data).source? j =
    if j = f.win then some { c with queue := chunkStored f.first data c.queue } else s.source? j :=
  setRole_source? (freePort s) f.win j _

theorem filled_entry_ne {j : WinIdx} (h : j ≠ f.win) : (s.filled f c data).entry j = s.entry j :=
  setRole_entry_ne (freePort s) f.win _ h

theorem filled_config : ((s.filled f c data).entry f.win).length = (s.entry f.win).length
    ∧ ((s.filled f c data).entry f.win).quota = (s.entry f.win).quota
    ∧ ((s.filled f c data).entry f.win).stream = (s.entry f.win).stream := by
  have entry := setRole_entry (freePort s) f.win f.win (.source { c with queue := chunkStored f.first data c.queue })
  rw [if_pos rfl] at entry
  change (s.filled f c data).entry f.win = _ at entry
  rw [entry]
  exact ⟨rfl, rfl, rfl⟩

/-- Filling records changes no claim. -/
theorem filled_claims (hc : s.source? f.win = some c) (j : WinIdx) : (s.filled f c data).claims j = s.claims j := by
  refine claims_congr ?_ rfl rfl
  simp only [State.recordCount, filled_source?]
  by_cases hj : j = f.win
  · subst hj; simp [hc, chunkStored]
  · simp [hj]

theorem filled_reserveOk (hc : s.source? f.win = some c) (k : Nat) :
    (s.filled f c data).reserveOk f.win k = s.reserveOk f.win k :=
  reserveOk_of_claims (filled_claims data hc) (filled_config data).2.1 k

end Filled

/-- The data of a read whose records stand (R69): the walk ends, goes on, or finds its stream suspended. -/
theorem chunkFilled_eq (hc : s.source? f.win = some c) (data : BitVec 512) : chunkFilled f data (freePort s) =
    if c.cursor = (s.entry f.win).length.toNat then
      if f.fifth then putSeedEnd f.win (s.filled f c data) else trySeedEnd f.win (s.filled f c data)
    else if s.seed.active = some f.win then
      nextChunk f.win { s.filled f c data with seed := { s.seed with flight := none } }
    else { s.filled f c data with seed := { s.seed.drop with flight := none } } := by
  have ctx : (freePort s).source? f.win = some c := hc
  have role : (freePort s).modSource f.win (fun c => { c with queue := fillRecords f.first data c.queue }) =
      s.filled f c data := by
    rw [modSource_some _ ctx]; rfl
  unfold chunkFilled
  rw [role]
  simp only [filled_source?, if_true, (filled_config data).1]
  rfl

theorem still_offers (h : s.still = true) : s.offers = { held := false, seed := false } := (still_iff.mp h).2.1

/-- With no release in the event the engine's next chunk takes its test at once (R67). -/
theorem beginChunk_of_no_offer (h : s.offers.held = false) : beginChunk i s = tryChunk i s := by
  simp [beginChunk, State.heldOfferDue, h]

/-- Settles O19: the records take the data; the engine's next step depends on its active stream and its quantum. -/
theorem seedAnswerFillsChunk : Obligations.SeedAnswerFillsChunk := by
  unfold Obligations.SeedAnswerFillsChunk
  intro s f c op data calm flight stands hop requester ctx goes reading
  have low := calm_resetLow calm
  have access := still_accessRests (calm_still calm)
  have offers := still_offers (calm_still calm)
  have run := exec_seedReadAnswer calm hop flight requester true data
  have answered : seedAnswered f true data (freePort s) =
      if s.seed.active = some f.win then
        nextChunk f.win { s.filled f c data with seed := { s.seed with flight := none } }
      else { s.filled f c data with seed := { s.seed.drop with flight := none } } := by
    simp only [seedAnswered, stands, chunkFilled_eq ctx, goes, if_true, if_false]
    simp
  rw [answered] at run
  have outcome : ∀ e : SeedEngine, ∀ o : Offers, ∀ u : State,
      u = { s.filled f c data with seed := e, offers := o } →
      (finish u).source? f.win = some { c with queue := chunkStored f.first data c.queue }
      ∧ (finish u).arb.op = none ∧ (∀ j, j ≠ f.win → (finish u).entry j = s.entry j)
      ∧ (finish u).link = s.link ∧ (finish u).sched = s.sched ∧ (finish u).seed = (seedTake u).seed := by
    intro e o u hu
    have rests : u.accessRests := by rw [hu]; exact access
    have high : u.resetLow = false := by rw [hu]; exact low
    refine ⟨?_, ?_, ?_, ?_, ?_, finish_seed high rests⟩
    · rw [finish_source? rests, hu]
      exact (filled_source? data f.win).trans (if_pos rfl)
    · rw [finish_arb rests, hu]; rfl
    · intro j hj
      rw [finish_entry rests, hu]
      exact filled_entry_ne data hj
    · rw [finish_link rests, hu]; rfl
    · rw [finish_sched rests, hu]; rfl
  have queued : ∀ n, (s.source? n).isSome = true → ∀ e : SeedEngine,
      (State.source? { s.filled f c data with seed := e } n).isSome = true := by
    intro n source e
    change ((s.filled f c data).source? n).isSome = true
    rw [filled_source?]
    split
    · rfl
    · exact source
  by_cases active : s.seed.active = some f.win
  · rw [if_pos active] at run
    have shape : ∃ e o, nextChunk f.win { s.filled f c data with seed := { s.seed with flight := none } } =
        { s.filled f c data with seed := e, offers := o } := by
      unfold nextChunk
      split
      · exact ⟨_, _, rfl⟩
      · rw [beginChunk_frame]; exact ⟨_, _, rfl⟩
    obtain ⟨e, o, eq⟩ := shape
    obtain ⟨source, port, others, link, sched, seed⟩ := outcome e o _ eq
    refine ⟨_, run, source, port, others, link, sched, fun _ => ⟨?next, ?yield⟩, by simp [active]⟩
    case next =>
      intro quantum
      have next : nextChunk f.win { s.filled f c data with seed := { s.seed with flight := none } } =
          tryChunk f.win { s.filled f c data with seed := { s.seed with flight := none } } := by
        have stays : ¬ (Config.seedQuantum ≤ s.seed.chunkCount ∧ s.seed.queue ≠ []) := by
          rintro ⟨many, wait⟩
          rcases quantum with few | empty
          · exact absurd many (by simp only [Config.seedQuantum]; omega)
          · exact wait empty
        unfold nextChunk
        rw [if_neg stays, beginChunk_of_no_offer]
        change s.offers.held = false
        rw [offers]
      have here : State.source? { s.filled f c data with seed := { s.seed with flight := none } } f.win =
          some { c with queue := chunkStored f.first data c.queue } :=
        (filled_source? data f.win).trans (if_pos rfl)
      have slots : chunkSlots (State.entry { s.filled f c data with seed := { s.seed with flight := none } } f.win)
          { c with queue := chunkStored f.first data c.queue } =
          chunkSlots (s.entry f.win) c := by
        change chunkSlots ((s.filled f c data).entry f.win) _ = _
        simp only [chunkSlots, (filled_config data).1, (filled_config data).2.1]
      have test : State.reserveOk { s.filled f c data with seed := { s.seed with flight := none } } f.win
          (chunkSlots (s.entry f.win) c) = s.reserveOk f.win (chunkSlots (s.entry f.win) c) :=
        filled_reserveOk data ctx _
      rw [seed, next, tryChunk_some here, slots, test]
      by_cases ok : s.reserveOk f.win (chunkSlots (s.entry f.win) c) = true
      · rw [if_pos ok, if_pos ok, seedTake_of_busy (.inl (by simp))]
      · rw [if_neg ok, if_neg ok, seedTake_of_busy (.inl (by simp))]
    case yield =>
      intro n rest many queue source
      have yields : nextChunk f.win { s.filled f c data with seed := { s.seed with flight := none } } =
          { s.filled f c data with seed := { { s.seed.drop with flight := none } with
            queue := (n :: rest) ++ [f.win] } } := by
        unfold nextChunk
        rw [if_pos ⟨many, by simp [queue]⟩]
        simp [joinSeedQueue, SeedEngine.drop, queue]
      rw [seed, yields]
      obtain ⟨h1, h2, h3, _⟩ := seedTake_head (s := { s.filled f c data with seed := { { s.seed.drop with
        flight := none } with queue := (n :: rest) ++ [f.win] } }) rfl rfl (queued n source _)
      exact ⟨h1, h2, h3⟩
  · rw [if_neg active] at run
    obtain ⟨source, port, others, link, sched, seed⟩ := outcome { s.seed.drop with flight := none } s.offers
      { s.filled f c data with seed := { s.seed.drop with flight := none } } rfl
    refine ⟨_, run, source, port, others, link, sched, fun h => absurd h active, fun _ => ⟨?_, ?_⟩⟩
    · intro empty
      have queue : (State.seed { s.filled f c data with seed := { s.seed.drop with flight := none } }).queue = [] := empty
      rw [seed, seedTake_of_busy (.inr queue)]
      simp [SeedEngine.drop, empty]
    · intro n rest queue source
      obtain ⟨h1, h2, h3, h4⟩ := seedTake_head (s := { s.filled f c data with
        seed := { s.seed.drop with flight := none } }) rfl queue (queued n source _)
      rw [seed]
      exact ⟨h1, h2, h3, h4⟩

/-! ### The end of a walk -/

/-- Settles O20: SEED_END takes the fifth slot, or one that passes the test, or waits. -/
theorem seedAnswerEndsWalk : Obligations.SeedAnswerEndsWalk := by
  unfold Obligations.SeedAnswerEndsWalk
  intro s f c op data calm flight stands hop requester ctx ended
  have access := still_accessRests (calm_still calm)
  have run := exec_seedReadAnswer calm hop flight requester true data
  have answered : seedAnswered f true data (freePort s) =
      if f.fifth then putSeedEnd f.win (s.filled f c data) else trySeedEnd f.win (s.filled f c data) := by
    simp only [seedAnswered, stands, chunkFilled_eq ctx, ended, if_true]
    simp
  have here : (s.filled f c data).source? f.win = some { c with queue := chunkStored f.first data c.queue } :=
    (filled_source? data f.win).trans (if_pos rfl)
  rw [answered] at run
  refine ⟨?placed, ?waits⟩
  case placed =>
    intro slot
    have placed : (if f.fifth then putSeedEnd f.win (s.filled f c data) else trySeedEnd f.win (s.filled f c data)) =
        putSeedEnd f.win (s.filled f c data) := by
      cases fifth : f.fifth with
      | true => simp
      | false =>
          have ok : s.reserveOk f.win 1 = true := by simpa [fifth] using slot
          simp [trySeedEnd, filled_reserveOk data ctx, ok]
    rw [placed, putSeedEnd_eq here, (filled_config data).1, (filled_config data).2.2] at run
    generalize hr : (Role.source _) = role at run
    have rests : State.accessRests { (s.filled f c data).setRole f.win role with
        seed := { (s.filled f c data).seed.drop with flight := none } } := access
    refine ⟨_, run, ?_, ?_, ?_, ?_⟩
    · rw [finish_source? rests]
      refine ((setRole_source? _ f.win f.win role).trans (if_pos rfl)).trans ?_
      rw [← hr]
      rfl
    · rw [finish_arb rests]; rfl
    · intro j hj
      rw [finish_entry rests]
      exact (setRole_entry_ne _ f.win role hj).trans (filled_entry_ne data hj)
    · intro empty
      have queue : (s.filled f c data).seed.queue = [] := empty
      rw [finish_seed_of_busy rests (.inr queue)]
      simp [SeedEngine.drop, queue]
  case waits =>
    intro fifth fails
    have waits : (if f.fifth then putSeedEnd f.win (s.filled f c data) else trySeedEnd f.win (s.filled f c data)) =
        { s.filled f c data with
          seed := { s.seed with phase := .endWait, active := some f.win, flight := none, resv := none } } := by
      rw [if_neg (by simp [fifth]), trySeedEnd, filled_reserveOk data ctx, if_neg (by simp [fails])]
      rfl
    rw [waits] at run
    have rests : State.accessRests { s.filled f c data with
        seed := { s.seed with phase := .endWait, active := some f.win, flight := none, resv := none } } := access
    refine ⟨_, run, ?_, ?_, ?_, ?_, ?_⟩
    · rw [finish_source? rests]; exact here
    · rw [finish_seed_of_busy rests (.inl (by simp))]
    · rw [finish_arb rests]; rfl
    · rw [finish_acc rests]; rfl
    · intro j hj
      rw [finish_entry rests]
      exact filled_entry_ne data hj

/-! ### Orphans and errors -/

/-- Settles O21: an orphaned read touches no stream; an ERROR to a read whose records stand is a fault of its stream. -/
theorem seedAnswerOrphanedOrError : Obligations.SeedAnswerOrphanedOrError := by
  unfold Obligations.SeedAnswerOrphanedOrError
  intro s f op ok data calm flight hop requester
  have low := calm_resetLow calm
  have access := still_accessRests (calm_still calm)
  have pulse := fun {x : Cause} hx => pulse_of_still (calm_still calm) (c := x) hx
  refine ⟨?orphan, ?fault⟩
  case orphan =>
    intro orphan
    have run := exec_seedReadAnswer calm hop flight requester ok data
    have answered : seedAnswered f ok data (freePort s) = { freePort s with
        ev := if ok then s.ev else s.ev.raise .memoryError, seed := { s.seed.drop with flight := none } } := by
      cases ok
      · simp only [seedAnswered, Bool.false_eq_true, if_false, orphan, if_true]
        rfl
      · simp only [seedAnswered, if_true, orphan]
        rfl
    rw [answered] at run
    generalize hu : ({ freePort s with
      ev := if ok then s.ev else s.ev.raise .memoryError, seed := { s.seed.drop with flight := none } } : State) = u at run
    have rests : u.accessRests := by rw [← hu]; exact access
    refine ⟨_, run, ?_, ?_, ?_, ?_, ?_, ?_, ?_⟩
    · rw [finish_windows rests, ← hu]; rfl
    · rw [finish_arb rests, ← hu]; rfl
    · rw [finish_seed (by rw [← hu]; exact low) rests, seedTake_flight, ← hu]
    · intro empty
      rw [finish_seed_of_busy rests (.inr (by rw [← hu]; exact empty)), ← hu]
      rfl
    · intro error
      have raised : u.ev = s.ev.raise .memoryError := by rw [← hu, error]; rfl
      exact finish_caused rfl (by rw [raised]; exact pulse rfl) (caused_of_raise raised)
    · rw [finish_link rests, ← hu]; rfl
    · rw [finish_sched rests, ← hu]; rfl
  case fault =>
    intro c stands ctx
    have run := exec_seedReadAnswer calm hop flight requester false data
    have ctx' : (raise .memoryError (freePort s)).source? f.win = some c := ctx
    have answered : seedAnswered f false data (freePort s) =
        { faultStream f.win .memoryError (raise .memoryError (freePort s)) with
          seed := { (faultStream f.win .memoryError (raise .memoryError (freePort s))).seed.drop with
            flight := none } } := by
      simp [seedAnswered, stands]
    rw [answered] at run
    have faults := faultStream_sourceLocal (i := f.win) (s := raise .memoryError (freePort s)) .memoryError
    obtain ⟨d, hd, state, reason, diverged, queue, _, _, _, _, epoch, _⟩ := faultStream_source? ctx' .memoryError
    have restsFault := faultStream_accessRests ctx' .memoryError access
    have streamFault := faultStream_caused ctx' .memoryError
    have noticed := faultStream_noticed ctx' .memoryError
    have memory := faults.grows.caused (caused_of_raise (t := raise .memoryError (freePort s)) (c := .memoryError) rfl)
    have cond : ∀ x : Cause, x.isPulse = true →
        (faultStream f.win .memoryError (raise .memoryError (freePort s))).ev.cond &&& x.bit = 0#13 := by
      intro x hx
      rw [faults.ev.1]
      exact pulse hx
    have highFault := faults.resetLow
    have others := faults.others
    generalize faultStream f.win .memoryError (raise .memoryError (freePort s)) = u at *
    have rests : State.accessRests { u with seed := { u.seed.drop with flight := none } } := restsFault
    have high : State.resetLow { u with seed := { u.seed.drop with flight := none } } = false := highFault.trans low
    refine ⟨_, d, run, ?_, state, reason, queue, diverged, epoch, ?_, ?_, ?_, ?_, ?_⟩
    · rw [finish_source? rests]; exact hd
    · exact finish_caused rfl (cond _ rfl) memory
    · exact finish_caused rfl (cond _ rfl) streamFault
    · exact finish_noticed noticed
    · rw [finish_seed high rests, seedTake_flight]
    · intro j hj
      rw [finish_entry rests]
      exact others j hj

end Sys2Proof.Machine
end

section
/-! SUPPORT. Management transactions at a quiet part: what each finds at its execution point, and the end of the event, which
adds nothing where the table, the engines and the conditions are left alone (R158 to R174). -/

namespace Sys2Proof.Machine

variable {s : State}

/-! ### The end of a transaction's event -/

theorem quiet_still (h : s.quiet = true) : s.still = true := calm_still (quiet_calm h)

/-- A transaction that changes the port, the masks, the latches or the count of free values ends so. -/
theorem finish_of_port (h : s.still = true) (p : Port) (e : EventUnit) (k : Nat) (he : e.cond = s.ev.cond) :
    finish { s with port := p, ev := e, freeReads := k } = { s with port := p, ev := e, freeReads := k } :=
  finish_of_still_same h rfl (still_accessRests (s := s) h) rfl rfl rfl rfl he rfl rfl rfl rfl rfl

theorem finish_of_port_only (h : s.still = true) (p : Port) : finish { s with port := p } = { s with port := p } :=
  finish_of_port h p s.ev s.freeReads rfl

/-- Where the heads of the sink streams, the engines and the offers stand, an event ends with the judgement. -/
theorem finish_of_still_heads {t : State} (h : s.still = true) (hr : t.resetLow = s.resetLow)
    (ha : t.accessRests) (hh : ∀ id, t.applyHead id = s.applyHead id) (hs : t.seed = s.seed) (hp : t.apply = s.apply)
    (ho : t.offers = s.offers) : finish t = judgeIfOver t := by
  obtain ⟨low, offers, _, _, seed, apply, _⟩ := still_iff.mp h
  refine finish_of_settled (hr.trans low) ha (by rw [hs]; exact seed) ?_ (ho.trans offers)
  rw [applyRests_congr hp hh, apply]

/-- A source stream has no head. -/
theorem applyHead_congr_of_sinks {t : State} (hl : ∀ id, t.lookup id = s.lookup id)
    (hk : ∀ j, t.sink? j = s.sink? j) (id : StreamId) : t.applyHead id = s.applyHead id := by
  simp only [State.applyHead, hl, hk]

theorem setSource_applyHead {i : WinIdx} {c : SourceCtx} (h : s.source? i = some c) (d : SourceCtx) (id : StreamId) :
    (s.setRole i (.source d)).applyHead id = s.applyHead id := by
  refine applyHead_congr_of_sinks (setSource_kept h d).lookup (fun j => ?_) id
  rw [setRole_sink?]
  split
  · rename_i hj; rw [hj, sink?_of_source? h]
  · rfl

/-! ### Transactions that execute nothing -/

theorem manage_done {f : State → State} {p : Port} (h : s.quiet = true) (hf : f s = { s with port := p }) :
    manage f s = { s with port := p } := by
  rw [manage_of_quiet h, hf, finish_of_port_only (quiet_still h)]

/-- A byte that names no transaction is answered BAD_COMMAND (R167). -/
theorem byteTransaction_bad {command : Byte} (h : isCommand command = false) (later : List Byte) :
    byteTransaction command later s = { s with port := donePort 1 (1 + later.length) [] .badCommand } := by
  have ne : ∀ k : Byte, isCommand k = true → command.toNat ≠ k.toNat := by
    intro k hk e
    rw [BitVec.eq_of_toNat_eq e, hk] at h
    cases h
  have bad : byteTransaction command later = transact 0 1 (1 + later.length) (plain fun s => (s, .badCommand)) := by
    unfold byteTransaction
    dsimp only
    split
    · rename_i e; exact absurd e (ne 0x31#8 rfl)
    · rename_i e; exact absurd e (ne 0x32#8 rfl)
    · rename_i e; exact absurd e (ne 0x33#8 rfl)
    · rename_i e; exact absurd e (ne 0x34#8 rfl)
    · rename_i e; exact absurd e (ne 0x35#8 rfl)
    · rename_i e; exact absurd e (ne 0x3C#8 rfl)
    · rfl
  rw [bad, transact_executes (by omega)]
  rfl

theorem setWidth_setWidth_of_le {id : Byte} (h : id.toNat ≤ 15) : (id.setWidth 4).setWidth 8 = id := by
  apply BitVec.eq_of_toNat_eq
  simp
  omega

/-- The stream operations of the command rows, by their code. -/
def streamRow (op : StreamOp) (id arg : Byte) (n : Nat) : List Instr :=
  match op with
  | .openOp => [.openOperation id arg n]
  | .close => [.closeOperation id arg n, .sinkCloseOperation id arg n]
  | .reseed => [.reseedOperation id arg n]
  | .fence => [.fenceOperation id arg n]
  | .promote => [.promoteOperation id arg n]

theorem exec_streamRow {op : StreamOp} {id arg : Byte} {n : Nat} {cmd : Instr} (h : cmd ∈ streamRow op id arg n) :
    exec cmd s = .next (manage (streamTransaction id op.code arg n) s) := by
  cases op <;> simp only [streamRow, List.mem_cons, List.not_mem_nil, or_false] at h
  · subst h; rfl
  · rcases h with rfl | rfl <;> rfl
  · subst h; rfl
  · subst h; rfl
  · subst h; rfl

/-- A stream operation refused without a change (R174). -/
theorem streamTransaction_refused {op : StreamOp} {id arg : Byte} {n : Nat} {r : Result} (h : s.quiet = true)
    (hn : 3 < n) (hr : streamCmd id op.code arg s = (s, r)) :
    manage (streamTransaction id op.code arg n) s = { s with port := donePort 4 n [] r } := by
  refine manage_done h ?_
  rw [streamTransaction_executes hn, hr]

/-- Settles O55: no execution point is reached, or the command executed refuses. -/
theorem nothingExecuted : Obligations.NothingExecuted := by
  unfold Obligations.NothingExecuted
  intro s quiet
  refine ⟨?bad, ?short, ?shortWrite, ?empty, ?stream⟩
  case bad =>
    intro command later bad
    exact congrArg _ (manage_done quiet (byteTransaction_bad bad later))
  case short =>
    intro item id causes n short cmd row
    simp only [List.mem_cons, List.not_mem_nil, or_false] at row
    rcases row with rfl | rfl | rfl
    · exact congrArg _ (manage_done quiet (transact_early short))
    · exact congrArg _ (manage_done quiet (transact_early short))
    · exact congrArg _ (manage_done quiet (transact_early short))
  case shortWrite =>
    intro item i x v n short cmd row
    have early : ∀ item, manage (writeTransaction item v n) s = { s with port := earlyPort n } := fun item =>
      manage_done quiet (transact_early short)
    simp only [List.mem_cons, List.not_mem_nil, or_false] at row
    rcases row with rfl | rfl | rfl | rfl | rfl | rfl | rfl <;> exact congrArg _ (early _)
  case empty =>
    intro cmd row
    simp only [List.mem_cons, List.not_mem_nil, or_false] at row
    rcases row with rfl | rfl
    · have early : restartTransaction 0 s = { s with port := earlyPort 0 } := transact_early (Nat.le_refl 0)
      exact congrArg _ (manage_done quiet early)
    · have early : resetTransaction 0 s = { s with port := earlyPort 0 } := by
        simp [resetTransaction, transact_early]
      exact congrArg _ (manage_done quiet early)
  case stream =>
    intro id arg n cmd row
    obtain ⟨op, member⟩ : ∃ op, cmd ∈ streamRow op id arg n := by
      simp only [List.mem_cons, List.not_mem_nil, or_false] at row
      rcases row with rfl | rfl | rfl | rfl | rfl | rfl
      · exact ⟨.openOp, by simp [streamRow]⟩
      · exact ⟨.close, by simp [streamRow]⟩
      · exact ⟨.close, by simp [streamRow]⟩
      · exact ⟨.reseed, by simp [streamRow]⟩
      · exact ⟨.fence, by simp [streamRow]⟩
      · exact ⟨.promote, by simp [streamRow]⟩
    rw [exec_streamRow member]
    refine ⟨fun short => ?_, fun long range => ?_, fun long range none => ?_, fun long range i found wrong => ?_⟩
    · exact congrArg _ (manage_done quiet (transact_early short))
    · exact congrArg _ (streamTransaction_refused quiet long (streamCmd_of_range range))
    · have refused := streamCmd_of_none (op := op) (argument := arg) none
      rw [setWidth_setWidth_of_le range] at refused
      exact congrArg _ (streamTransaction_refused quiet long refused)
    · have judged := streamCmd_of_lookup (op := op) (argument := arg) found
      rw [setWidth_setWidth_of_le range] at judged
      have refused : streamOp op arg i s = (s, .refusedState) := by
        rcases wrong with ⟨source, rfl⟩ | ⟨sink, which⟩
        · obtain ⟨c, ctx⟩ := Option.isSome_iff_exists.mp source
          cases op <;> simp [streamRow] at member
          simp only [streamOp, source?_eq_some.mp ctx]
        · obtain ⟨c, ctx⟩ := Option.isSome_iff_exists.mp sink
          rcases which with rfl | rfl | rfl <;> cases op <;> simp [streamRow] at member <;>
            simp only [streamOp, sink?_eq_some.mp ctx]
      exact congrArg _ (streamTransaction_refused quiet long (judged.trans refused))

/-! ### Masks and acknowledges -/

theorem cause_of_position {k : Nat} (h : k < 13) : ∃ c : Cause, c.position = k := by
  have all : ∀ k : Fin 13, ∃ c ∈ [Cause.linkUp, .linkDown, .streamLive, .streamReseed, .streamFault, .streamClosed,
      .fenceDone, .writeRefused, .readRefused, .frameError, .journalLow, .holding, .memoryError],
      c.position = k.val := by decide
  obtain ⟨c, _, hc⟩ := all ⟨k, h⟩
  exact ⟨c, hc⟩

theorem bit_getElem_fin (c : Cause) (k : Fin 13) : c.bit[k.val]'k.isLt = decide (k.val = c.position) := by
  revert k
  cases c <;> decide

theorem bit_getElem (c : Cause) {k : Nat} (h : k < 13) : c.bit[k] = decide (k = c.position) :=
  bit_getElem_fin c ⟨k, h⟩

theorem position_lt (c : Cause) : c.position < 13 := by cases c <;> decide

/-- A word met by the bit of a cause has that bit set. -/
theorem and_bit_ne_zero_iff {x : BitVec 13} (c : Cause) :
    x &&& c.bit ≠ 0#13 ↔ x[c.position]'(position_lt c) = true := by
  rw [ne_eq, and_mask_eq_zero_iff]
  constructor
  · intro h
    refine Classical.byContradiction fun clear => ?_
    refine h fun k hk hb => ?_
    rw [bit_getElem c hk, decide_eq_true_eq] at hb
    subst hb
    simpa using clear
  · intro h clear
    have := clear c.position (position_lt c) (by simp [bit_getElem])
    rw [h] at this
    cases this

/-- Settles O48: neither touches a condition, so the event ends with what they write. -/
theorem masksAndAcknowledges : Obligations.MasksAndAcknowledges := by
  unfold Obligations.MasksAndAcknowledges
  intro s n quiet
  refine ⟨?masks, ?acks, ?attention⟩
  case masks =>
    intro v long
    have item : writeItem 0x0301#16 v s = (writeMask v s, .done) := rfl
    have run : exec (.eventMaskWrite v n) s = .next (manage (writeTransaction 0x0301#16 v n) s) := rfl
    rw [run, manage_of_quiet quiet, writeTransaction_executes long, item]
    exact congrArg _ (finish_of_port (quiet_still quiet) _ { s.ev with unmasked := v.extractLsb' 0 13 } s.freeReads rfl)
  case acks =>
    intro causes long
    have run : exec (.ackEvents causes n) s = .next (manage (ackTransaction causes n) s) := rfl
    have done : ackTransaction causes n s = { s with
        port := donePort 3 n [] .done, ev := s.ev.acknowledge (causes.extractLsb' 0 13) } := by
      rw [ackTransaction, transact_executes long]; rfl
    refine ⟨{ s with port := donePort 3 n [] .done, ev := s.ev.acknowledge (causes.extractLsb' 0 13) }, ?_, rfl, ?_⟩
    · rw [run, manage_of_quiet quiet, done]
      exact congrArg _ (finish_of_port (quiet_still quiet) _ _ s.freeReads rfl)
    · intro c
      have named : ∀ k (hk : k < 13), c.bit[k] = true → (causes.extractLsb' 0 13)[k] = causes.getLsbD c.position := by
        intro k hk hb
        rw [bit_getElem c hk, decide_eq_true_eq] at hb
        subst hb
        simp
      refine ⟨fun acked => ⟨?_, ?_⟩, fun left => ⟨?_, ?_⟩, rfl, rfl, rfl⟩
      all_goals
        rw [and_mask_eq_and_mask_iff]
        intro k hk hb
        have bit := named k hk hb
        simp only [EventUnit.acknowledge, BitVec.getElem_and, BitVec.getElem_or, BitVec.getElem_not, bit, hb]
        simp [*]
  case attention =>
    have high : s.resetLow = false := calm_resetLow (quiet_calm quiet)
    have met : attnLow s = true ↔ s.ev.pending &&& s.ev.unmasked ≠ 0#13 := by
      simp [attnLow, EventUnit.attention, high]
    rw [met]
    constructor
    · intro h
      refine Classical.byContradiction fun none => ?_
      apply h
      ext k hk
      obtain ⟨c, hc⟩ := cause_of_position hk
      subst hc
      have : ¬ (s.ev.pending[c.position] = true ∧ s.ev.unmasked[c.position] = true) := fun both =>
        none ⟨c, (and_bit_ne_zero_iff c).mpr both.1, (and_bit_ne_zero_iff c).mpr both.2⟩
      simp only [BitVec.getElem_and, BitVec.getElem_zero]
      simpa using this
    · rintro ⟨c, pending, unmasked⟩ clear
      have bit := congrArg (fun x : BitVec 13 => x[c.position]'(position_lt c)) clear
      simp [(and_bit_ne_zero_iff c).mp pending, (and_bit_ne_zero_iff c).mp unmasked] at bit

end Sys2Proof.Machine
end

section
/-! SUPPORT. Items: the fields of an item read back one by one, the reads and the writes of items, and FENCE (R57, R166 to
R173). -/

namespace Sys2Proof.Machine

variable {s : State}

/-! ### The fields of an item -/

theorem getField_testBit (v : Word) (lo width k : Nat) :
    (getField v lo width).testBit k = (decide (k < width) && v.getLsbD (lo + k)) := by
  simp only [getField, BitVec.testBit_toNat, BitVec.getLsbD_extractLsb']

theorem putField_getLsbD (n lo k : Nat) :
    (putField n lo).getLsbD k = (decide (k < 32) && decide (lo ≤ k) && n.testBit (k - lo)) := by
  simp only [putField, BitVec.getLsbD_shiftLeft, BitVec.getLsbD_ofNat]
  by_cases h : lo ≤ k
  · by_cases h' : k < 32
    · have : k - lo < 32 := by omega
      simp [h, h', this, Nat.not_lt.mpr h]
    · simp [h']
  · simp [h, Nat.lt_of_not_le h]

theorem getField_or (a b : Word) (lo width : Nat) :
    getField (a ||| b) lo width = getField a lo width ||| getField b lo width := by
  simp only [getField, ← BitVec.toNat_or]
  congr 1
  ext k hk
  simp

theorem getField_and (a b : Word) (lo width : Nat) :
    getField (a &&& b) lo width = getField a lo width &&& getField b lo width := by
  simp only [getField, ← BitVec.toNat_and]
  congr 1
  ext k hk
  simp

/-- A field is read back where it was put. -/
theorem getField_putField {n lo width : Nat} (h : n < 2 ^ width) (hw : lo + width ≤ 32) :
    getField (putField n lo) lo width = n := by
  apply Nat.eq_of_testBit_eq
  intro k
  rw [getField_testBit, putField_getLsbD]
  by_cases hk : k < width
  · have h1 : lo + k < 32 := by omega
    simp [hk, h1]
  · have big : n < 2 ^ k := Nat.lt_of_lt_of_le h (Nat.pow_le_pow_right (by decide) (Nat.le_of_not_lt hk))
    simp [hk, Nat.testBit_lt_two_pow big]

/-- A field that ends below leaves the bits read clear. -/
theorem getField_putField_below {n lo lo' width m : Nat} (h : n < 2 ^ m) (hm : lo' + m ≤ lo) :
    getField (putField n lo') lo width = 0 := by
  apply Nat.eq_of_testBit_eq
  intro k
  rw [getField_testBit, putField_getLsbD, Nat.zero_testBit]
  have big : n < 2 ^ (lo + k - lo') := Nat.lt_of_lt_of_le h (Nat.pow_le_pow_right (by decide) (by omega))
  simp [Nat.testBit_lt_two_pow big]

/-- A field that begins above leaves the bits read clear. -/
theorem getField_putField_above {n lo lo' width : Nat} (hm : lo + width ≤ lo') :
    getField (putField n lo') lo width = 0 := by
  apply Nat.eq_of_testBit_eq
  intro k
  rw [getField_testBit, putField_getLsbD, Nat.zero_testBit]
  by_cases hk : k < width
  · have : ¬ lo' ≤ lo + k := by omega
    simp [this]
  · simp [hk]

theorem srcCode_lt (x : SrcState) : x.code < 2 ^ 4 := by cases x <;> decide
theorem sinkCode_lt (x : SinkState) : x.code < 2 ^ 4 := by cases x <;> decide
theorem priorCode_lt (x : Prior) : x.code < 2 ^ 8 := by cases x <;> decide
theorem fenceCode_lt (x : FenceOutcome) : x.code < 2 ^ 2 := by cases x <;> decide
theorem byte_lt (x : Byte) : x.toNat < 2 ^ 8 := x.isLt
theorem winIdx_lt (i : WinIdx) : i.val < 2 ^ 4 := by omega
theorem bool_lt (b : Bool) : b.toNat < 2 ^ 1 := by cases b <;> decide

section SourceStatus

variable (i : WinIdx) (c : SourceCtx)

/-- The first status item of a source stream, field by field (R171). -/
theorem sourceStatus_fields :
    getField (readSource s i c 0) 0 4 = 1 ∧ getField (readSource s i c 0) 4 4 = c.state.code
    ∧ getField (readSource s i c 0) 8 8 = c.prior.code ∧ getField (readSource s i c 0) 16 8 = c.epoch.toNat
    ∧ getField (readSource s i c 0) 24 4 = c.diverged.toNat ∧ getField (readSource s i c 0) 28 4 = i.val := by
  have kind : (1 : Nat) < 2 ^ 4 := by decide
  have div : c.diverged.toNat < 2 ^ 4 := Nat.lt_of_lt_of_le (bool_lt _) (by decide)
  simp only [readSource, getField_or, putFlag]
  refine ⟨?_, ?_, ?_, ?_, ?_, ?_⟩
  · rw [getField_putField kind (by decide), getField_putField_above (by decide), getField_putField_above (by decide),
      getField_putField_above (by decide), getField_putField_above (by decide), getField_putField_above (by decide)]
    rfl
  · rw [getField_putField_below kind (by decide), getField_putField (srcCode_lt _) (by decide),
      getField_putField_above (by decide), getField_putField_above (by decide), getField_putField_above (by decide),
      getField_putField_above (by decide)]
    simp
  · rw [getField_putField_below kind (by decide), getField_putField_below (srcCode_lt _) (by decide),
      getField_putField (priorCode_lt _) (by decide), getField_putField_above (by decide),
      getField_putField_above (by decide), getField_putField_above (by decide)]
    simp
  · rw [getField_putField_below kind (by decide), getField_putField_below (srcCode_lt _) (by decide),
      getField_putField_below (priorCode_lt _) (by decide), getField_putField (byte_lt _) (by decide),
      getField_putField_above (by decide), getField_putField_above (by decide)]
    simp
  · rw [getField_putField_below kind (by decide), getField_putField_below (srcCode_lt _) (by decide),
      getField_putField_below (priorCode_lt _) (by decide), getField_putField_below (byte_lt _) (by decide),
      getField_putField div (by decide), getField_putField_above (by decide)]
    simp
  · rw [getField_putField_below kind (by decide), getField_putField_below (srcCode_lt _) (by decide),
      getField_putField_below (priorCode_lt _) (by decide), getField_putField_below (byte_lt _) (by decide),
      getField_putField_below div (by decide), getField_putField (winIdx_lt i) (by decide)]
    simp

end SourceStatus

/-- The NAK flag of a sink stream stands at the second bit of its field. -/
theorem getField_nakFlag (b : Bool) : getField (putFlag b 25) 24 4 = 2 * b.toNat := by
  cases b <;> decide

/-- The first status item of a sink stream, field by field (R171). -/
theorem sinkStatus_fields (i : WinIdx) (c : SinkCtx) :
    getField (readSink i c 0) 0 4 = 2 ∧ getField (readSink i c 0) 4 4 = c.state.code
    ∧ getField (readSink i c 0) 8 8 = c.prior.code ∧ getField (readSink i c 0) 16 8 = c.epoch.toNat
    ∧ getField (readSink i c 0) 24 4 = 2 * c.nakOutstanding.toNat ∧ getField (readSink i c 0) 28 4 = i.val := by
  have kind : (2 : Nat) < 2 ^ 4 := by decide
  have flag : c.nakOutstanding.toNat < 2 ^ 1 := bool_lt _
  have field := getField_nakFlag c.nakOutstanding
  unfold putFlag at field
  simp only [readSink, getField_or, putFlag]
  refine ⟨?_, ?_, ?_, ?_, ?_, ?_⟩
  · rw [getField_putField kind (by decide), getField_putField_above (by decide), getField_putField_above (by decide),
      getField_putField_above (by decide), getField_putField_above (by decide), getField_putField_above (by decide)]
    rfl
  · rw [getField_putField_below kind (by decide), getField_putField (sinkCode_lt _) (by decide),
      getField_putField_above (by decide), getField_putField_above (by decide), getField_putField_above (by decide),
      getField_putField_above (by decide)]
    simp
  · rw [getField_putField_below kind (by decide), getField_putField_below (sinkCode_lt _) (by decide),
      getField_putField (priorCode_lt _) (by decide), getField_putField_above (by decide),
      getField_putField_above (by decide), getField_putField_above (by decide)]
    simp
  · rw [getField_putField_below kind (by decide), getField_putField_below (sinkCode_lt _) (by decide),
      getField_putField_below (priorCode_lt _) (by decide), getField_putField (byte_lt _) (by decide),
      getField_putField_above (by decide), getField_putField_above (by decide)]
    simp
  · rw [getField_putField_below kind (by decide), getField_putField_below (sinkCode_lt _) (by decide),
      getField_putField_below (priorCode_lt _) (by decide), getField_putField_below (byte_lt _) (by decide),
      field, getField_putField_above (by decide)]
    simp
  · rw [getField_putField_below kind (by decide), getField_putField_below (sinkCode_lt _) (by decide),
      getField_putField_below (priorCode_lt _) (by decide), getField_putField_below (byte_lt _) (by decide),
      getField_putField_below flag (by decide), getField_putField (winIdx_lt i) (by decide)]
    simp

/-! ### The fence and PROMOTION items -/

theorem getField_masked {m : Word} {lo width : Nat} (free : Word) (h : getField m lo width = 0) :
    getField (free &&& m) lo width = 0 := by
  rw [getField_and, h, Nat.and_zero]

/-- The last outcome's half leaves the fence's half clear. -/
theorem lastFenceFields_low (free : Word) (l : Option (FenceOutcome × Tag)) {lo width : Nat} (h : lo + width ≤ 16) :
    getField (lastFenceFields free l) lo width = 0 := by
  cases l with
  | none =>
      refine getField_masked free ?_
      apply Nat.eq_of_testBit_eq
      intro k
      rw [getField_testBit, Nat.zero_testBit]
      by_cases hk : k < width
      · have clear : ∀ q : Fin 16, (0xFF000000#32).getLsbD q.val = false := by decide
        simp [clear ⟨lo + k, by omega⟩]
      · simp [hk]
  | some p =>
      simp only [lastFenceFields, getField_or]
      rw [getField_putField_above h, getField_putField_above (by omega)]
      rfl

theorem fenceFields_high (free : Word) (x : Option Tag) {lo width : Nat} (h : 16 ≤ lo) :
    getField (fenceFields free x) lo width = 0 := by
  cases x with
  | none =>
      refine getField_masked free ?_
      apply Nat.eq_of_testBit_eq
      intro k
      rw [getField_testBit, Nat.zero_testBit]
      by_cases hk : lo + k < 32
      · have clear : ∀ q : Fin 32, 16 ≤ q.val → (0x0000FF00#32).getLsbD q.val = false := by decide
        simp [clear ⟨lo + k, hk⟩ (by simp; omega)]
      · simp [BitVec.getLsbD_of_ge _ _ (Nat.le_of_not_lt hk)]
  | some tag =>
      simp only [fenceFields, getField_or]
      rw [getField_putField_below (m := 1) (by decide) (by omega), getField_putField_below (byte_lt tag) (by omega)]
      rfl

/-- The fence item of a source stream (R171, +6). -/
theorem fenceItem_fields (free : Word) (x : Option Tag) (l : Option (FenceOutcome × Tag)) :
    (∀ tag, x = some tag → getField (fenceFields free x ||| lastFenceFields free l) 0 1 = 1
      ∧ getField (fenceFields free x ||| lastFenceFields free l) 8 8 = tag.toNat)
    ∧ (x = none → getField (fenceFields free x ||| lastFenceFields free l) 0 1 = 0)
    ∧ (∀ p, l = some p → getField (fenceFields free x ||| lastFenceFields free l) 16 2 = p.1.code
      ∧ getField (fenceFields free x ||| lastFenceFields free l) 24 8 = p.2.toNat)
    ∧ (l = none → getField (fenceFields free x ||| lastFenceFields free l) 16 2 = 0) := by
  simp only [getField_or]
  refine ⟨?_, ?_, ?_, ?_⟩
  · rintro tag rfl
    rw [lastFenceFields_low _ _ (by decide), lastFenceFields_low _ _ (by decide)]
    simp only [fenceFields, getField_or]
    rw [getField_putField (n := 1) (by decide) (by decide), getField_putField_above (by decide),
      getField_putField_below (n := 1) (m := 1) (by decide) (by decide), getField_putField (byte_lt tag) (by decide)]
    simp
  · rintro rfl
    rw [lastFenceFields_low _ _ (by decide), fenceFields, getField_masked _ (by decide)]
    rfl
  · rintro ⟨o, tag⟩ rfl
    rw [fenceFields_high _ _ (by decide), fenceFields_high _ _ (by decide)]
    simp only [lastFenceFields, getField_or]
    rw [getField_putField (fenceCode_lt o) (by decide), getField_putField_above (by decide),
      getField_putField_below (fenceCode_lt o) (by decide), getField_putField (byte_lt tag) (by decide)]
    simp
  · rintro rfl
    rw [fenceFields_high _ _ (by decide), lastFenceFields, getField_masked _ (by decide)]
    rfl

/-- The PROMOTION item (R171, +7). -/
theorem promotionItem_fields (free : Word) (x : Option Promotion) :
    (∀ p, x = some p → p.discarded ≤ 4 →
      getField (promotionFields free x) 31 1 = 1 ∧ getField (promotionFields free x) 16 8 = p.epoch.toNat
      ∧ getField (promotionFields free x) 0 16 = p.lastApplied.toNat
      ∧ getField (promotionFields free x) 24 3 = p.discarded)
    ∧ (x = none → getField (promotionFields free x) 31 1 = 0) := by
  constructor
  · rintro p rfl few
    have last : p.lastApplied.toNat < 2 ^ 16 := p.lastApplied.isLt
    have count : p.discarded < 2 ^ 3 := by omega
    have one : (1 : Nat) < 2 ^ 1 := by decide
    simp only [promotionFields, getField_or]
    refine ⟨?_, ?_, ?_, ?_⟩
    · rw [getField_putField one (by decide), getField_putField_below (byte_lt _) (by decide),
        getField_putField_below last (by decide), getField_putField_below count (by decide)]
      simp
    · rw [getField_putField_above (by decide), getField_putField (byte_lt _) (by decide),
        getField_putField_below last (by decide), getField_putField_above (by decide)]
      simp
    · rw [getField_putField_above (by decide), getField_putField_above (by decide), getField_putField last (by decide),
        getField_putField_above (by decide)]
      simp
    · rw [getField_putField_above (by decide), getField_putField_below (byte_lt _) (by decide),
        getField_putField_below last (by decide), getField_putField count (by decide)]
      simp
  · rintro rfl
    exact getField_masked _ (by decide)

/-- Two halves of an item (R171, +1). -/
theorem putField_halves (x y : Seq) : putField x.toNat 0 ||| putField y.toNat 16 = y ++ x := by
  apply BitVec.eq_of_getLsbD_eq
  intro k hk
  rw [BitVec.getLsbD_or, putField_getLsbD, putField_getLsbD, BitVec.getLsbD_append]
  simp only [BitVec.testBit_toNat]
  by_cases low : k < 16
  · simp [hk, low, Nat.not_le_of_lt low]
  · simp [hk, low, Nat.le_of_not_lt low]

/-- The lower half of an item that holds a sequence number there. -/
theorem extract_low_half (x : Seq) (a b d : Nat) :
    (putField x.toNat 0 ||| putField a 16 ||| putField b 20 ||| putField d 22).extractLsb' 0 16 = x := by
  apply BitVec.eq_of_getLsbD_eq
  intro k hk
  have h1 : ¬ 16 ≤ k := by omega
  have h2 : ¬ 20 ≤ k := by omega
  have h3 : ¬ 22 ≤ k := by omega
  have h4 : k < 32 := by omega
  simp only [BitVec.getLsbD_extractLsb', BitVec.getLsbD_or, putField_getLsbD, BitVec.testBit_toNat]
  simp [hk, h1, h2, h3, h4]

theorem putField_zero_toNat {n : Nat} (h : n < 2 ^ 32) : (putField n 0).toNat = n := by
  simp [putField]
  omega

/-! ### Reads -/

theorem readItem_some {item : BitVec 16} {x : Item} (h : itemOf item = some x) :
    readItem item s = (readEffect x s, .done, s.itemValue x) := by
  simp only [readItem, h]

theorem exec_readItem {n : Nat} (hq : s.quiet = true) (hn : 2 < n) {item : BitVec 16} {x : Item}
    (h : itemOf item = some x) : manage (readTransaction item n) s =
      finish { readEffect x s with port := donePort 8 n (be32 (s.itemValue x)) .done } := by
  rw [manage_of_quiet hq, readTransaction_executes hn, readItem_some h]

theorem exec_readItem_plain {n : Nat} (hq : s.quiet = true) (hn : 2 < n) {item : BitVec 16} {x : Item}
    (h : itemOf item = some x) (he : readEffect x s = s) : manage (readTransaction item n) s =
      { s with port := donePort 8 n (be32 (s.itemValue x)) .done } := by
  rw [exec_readItem hq hn h, he, finish_of_port_only (quiet_still hq)]

/-- A read changes a notice or the count of free values, and nothing else (R162, R168). -/
theorem readEffect_cases (x : Item) (s : State) :
    (∃ id, x = .stream id 0) ∨ ∃ k, readEffect x s = { s with freeReads := k } := by
  unfold readEffect
  split
  · exact .inl ⟨_, rfl⟩
  · exact .inr ⟨_, rfl⟩
  · exact .inr ⟨_, rfl⟩
  · exact .inr ⟨s.freeReads, rfl⟩

theorem itemOf_statusItemNumber (id : StreamId) : itemOf (statusItemNumber id) = some (.stream id 0) := by
  revert id; decide

theorem readStream_source {id : StreamId} {i : WinIdx} {c : SourceCtx} (hl : s.lookup id = some i)
    (hc : s.source? i = some c) {k : Nat} (hk : k ≠ 7) : s.readStream id k = readSource s i c k := by
  simp [State.readStream, hl, hk, source?_eq_some.mp hc]

theorem readStream_sink {id : StreamId} {i : WinIdx} {c : SinkCtx} (hl : s.lookup id = some i)
    (hc : s.sink? i = some c) {k : Nat} (hk : k ≠ 7) : s.readStream id k = readSink i c k := by
  simp [State.readStream, hl, hk, sink?_eq_some.mp hc]

theorem readStream_promotion {id : StreamId} {i : WinIdx} (hl : s.lookup id = some i) :
    s.readStream id 7 = promotionFields s.absent (s.entry i).promotion := by
  simp [State.readStream, hl]

/-- Settles O44: each item is mapped to its value, and the value's fields are read back. -/
theorem readItems : Obligations.ReadItems := by
  unfold Obligations.ReadItems
  intro s n quiet long
  refine ⟨?values, ?mapped, ?unmapped, ?status⟩
  case values =>
    intro p row
    have plain : ∀ {item : BitVec 16} {x : Item}, itemOf item = some x → readEffect x s = s →
        exec (.readItem item n) s = .next { s with port := donePort 8 n (be32 (s.itemValue x)) .done } :=
      fun h he => congrArg _ (exec_readItem_plain quiet long h he)
    simp only [List.mem_cons, List.not_mem_nil, or_false] at row
    rcases row with rfl | rfl | rfl | rfl | rfl | rfl | rfl | rfl | rfl | rfl | rfl | rfl | rfl | rfl | rfl
    · exact plain (item := 0x0000#16) (x := .identification) (by decide) rfl
    · exact plain (item := 0x0010#16) (x := .setting .tickDivisor) (by decide) rfl
    · exact plain (item := 0x0015#16) (x := .setting .ackEvery) (by decide) rfl
    · exact plain (item := 0x0019#16) (x := .setting .silenceLimit) (by decide) rfl
    · exact plain (item := 0x0201#16) (x := .linkCounter 0) (by decide) rfl
    · exact plain (item := 0x0202#16) (x := .linkCounter 1) (by decide) rfl
    · exact plain (item := 0x0203#16) (x := .linkCounter 2) (by decide) rfl
    · exact plain (item := 0x0204#16) (x := .linkCounter 3) (by decide) rfl
    · exact plain (item := 0x0205#16) (x := .linkCounter 4) (by decide) rfl
    · exact plain (item := 0x0206#16) (x := .linkCounter 5) (by decide) rfl
    · exact plain (item := 0x0210#16) (x := .journalStatus) (by decide) rfl
    · exact plain (item := 0x0300#16) (x := .eventPending) (by decide) rfl
    · exact plain (item := 0x0301#16) (x := .eventMask) (by decide) rfl
    · exact plain (item := 0x0302#16) (x := .eventConditions) (by decide) rfl
    · exact plain (item := 0x0303#16) (x := .noticeSet) (by decide) rfl
  case mapped =>
    intro item x mapped other
    rcases readEffect_cases x s with ⟨id, first⟩ | ⟨k, effect⟩
    · exact absurd first (other id)
    · refine ⟨_, congrArg Host.Outcome.next (exec_readItem quiet long mapped), ?_⟩
      rw [effect]
      exact (finish_of_port (quiet_still quiet) _ s.ev k rfl).trans
        (by rw [finish_of_port (quiet_still quiet) _ s.ev k rfl])
  case unmapped =>
    intro item unmapped
    refine congrArg _ (manage_done quiet ?_)
    rw [readTransaction_executes long]
    simp only [readItem, unmapped]
  case status =>
    intro id v value
    subst value
    refine ⟨?run, ?absent, ?source, ?sink⟩
    case run =>
      have run : exec (.streamStatusRead id n) s = .next (manage (readTransaction (statusItemNumber id) n) s) := rfl
      rw [run, exec_readItem quiet long (itemOf_statusItemNumber id)]
      exact congrArg _ (finish_of_port (quiet_still quiet) _ (s.ev.dropNotice id) s.freeReads rfl)
    case absent =>
      intro none
      simp [State.readStream, none]
    case source =>
      intro i c found ctx
      have block := fun {k : Nat} (hk : k ≠ 7) => readStream_source found ctx hk
      obtain ⟨kind, state, prior, epoch, diverged, window⟩ := sourceStatus_fields (s := s) i c
      obtain ⟨fence, noFence, lastFence, noLast⟩ := fenceItem_fields s.absent c.fence c.lastFence
      obtain ⟨promoted, notPromoted⟩ := promotionItem_fields s.absent (s.entry i).promotion
      rw [block (k := 0) (by decide), block (k := 1) (by decide), block (k := 2) (by decide), block (k := 5) (by decide),
        block (k := 6) (by decide), block (k := 8) (by decide), block (k := 9) (by decide), block (k := 10) (by decide),
        block (k := 11) (by decide), readStream_promotion found]
      refine ⟨kind, state, prior, epoch, diverged, window, putField_halves _ _, extract_low_half _ _ _ _, ?_, fence,
        noFence, lastFence, noLast, promoted, notPromoted, rfl, rfl, rfl, rfl⟩
      exact putField_zero_toNat (by cases c.faultReason <;> decide)
    case sink =>
      intro i c found ctx
      have block := fun {k : Nat} (hk : k ≠ 7) => readStream_sink found ctx hk
      obtain ⟨kind, state, prior, epoch, nak, window⟩ := sinkStatus_fields i c
      rw [block (k := 0) (by decide), block (k := 1) (by decide), block (k := 5) (by decide), block (k := 6) (by decide),
        block (k := 8) (by decide), block (k := 9) (by decide), block (k := 10) (by decide), block (k := 11) (by decide)]
      refine ⟨kind, state, prior, epoch, nak, window, ?_, ?_, rfl, rfl, rfl, rfl, rfl⟩
      · apply BitVec.eq_of_toNat_eq
        have small : c.expected.toNat < 2 ^ 32 := Nat.lt_of_lt_of_le c.expected.isLt (by decide)
        change (putField c.expected.toNat 0).toNat = _
        rw [putField_zero_toNat small, BitVec.toNat_setWidth, Nat.mod_eq_of_lt small]
      · exact putField_zero_toNat (by cases c.closeReason <;> decide)

end Sys2Proof.Machine
end

section
/-! SUPPORT. Writes of settings and of window entries, and FENCE (R24 to R29, R57, R169, R170, R173). -/

namespace Sys2Proof.Machine

variable {s : State}

/-! ### Settings -/

theorem writeItem_setting {item : BitVec 16} {k : Setting} (h : itemOf item = some (.setting k)) (v : Word) :
    writeItem item v s = writeSetting k v s := by
  simp only [writeItem, h]

/-- Only three settings act at once (R89, R137, R157). -/
def Setting.quietly : Setting → Bool
  | .ackEvery | .journalLow | .linkEnable => false
  | _ => true

theorem settings_put_get {x : Settings} {k : Setting} (hk : k.quietly = true) : x.put k (x.get k) = x := by
  cases k <;> simp_all [Setting.quietly, Settings.put, Settings.get]

/-- A setting that acts later leaves the conditions as they are. -/
theorem finish_of_setting (h : s.still = true) {k : Setting} (hk : k.quietly = true) (v : Nat) (p : Port) :
    finish { s with settings := s.settings.put k v, port := p } =
      { s with settings := s.settings.put k v, port := p } := by
  refine finish_of_still_same h rfl (still_accessRests (s := s) h) rfl rfl rfl rfl rfl ?_ ?_ rfl rfl rfl
  · cases k <;> simp_all [Setting.quietly, Settings.put]
  · cases k <;> simp_all [Setting.quietly, Settings.put]

theorem settingChanged_quietly {k : Setting} (hk : k.quietly = true) (s : State) : settingChanged k s = s := by
  cases k <;> simp_all [Setting.quietly, settingChanged]

theorem writeSetting_refused {k : Setting} {v : Word} (h : s.settings.accepts k v.toNat = false) :
    writeSetting k v s = (s, .refusedRange) := by
  simp [writeSetting, h]

theorem writeSetting_present {k : Setting} {v : Word} (h : s.settings.accepts k v.toNat = true)
    (hv : s.settings.get k = v.toNat) : writeSetting k v s = (s, .done) := by
  simp [writeSetting, h, hv]

theorem writeSetting_quietly {k : Setting} {v : Word} (h : s.settings.accepts k v.toNat = true)
    (hk : k.quietly = true) : writeSetting k v s = ({ s with settings := s.settings.put k v.toNat }, .done) := by
  by_cases hv : s.settings.get k = v.toNat
  · rw [writeSetting_present h hv, ← hv, settings_put_get hk]
  · simp [writeSetting, h, hv, settingChanged_quietly hk]

/-- The twelve settings stand at items 0010h to 001Bh (section 10.2). -/
theorem itemOf_setting {j : Nat} {k : Setting} (h : settingList[j]? = some k) :
    itemOf (BitVec.ofNat 16 (16 + j)) = some (.setting k) := by
  have inside : j < 12 := by
    have := (List.getElem?_eq_some_iff.mp h).1
    simpa [settingList] using this
  have all : ∀ q : Fin 12, itemOf (BitVec.ofNat 16 (16 + q.val)) = (settingList[q.val]?).map .setting := by decide
  have := all ⟨j, inside⟩
  rw [h] at this
  exact this

theorem writeItem_unmapped {item : BitVec 16} (h : itemOf item = none) (v : Word) :
    writeItem item v s = (s, .badItem) := by
  simp only [writeItem, h]

/-- A write that changes nothing but the port (R169). -/
theorem manage_write {item : BitVec 16} {v : Word} {n : Nat} {r : Result} (hq : s.quiet = true) (hn : 6 < n)
    (h : writeItem item v s = (s, r)) :
    manage (writeTransaction item v n) s = { s with port := donePort 7 n [] r } := by
  refine manage_done hq ?_
  rw [writeTransaction_executes hn, h]

theorem manage_write_setting {item : BitVec 16} {k : Setting} {v : Word} {n : Nat} (hq : s.quiet = true) (hn : 6 < n)
    (hi : itemOf item = some (.setting k)) (ha : s.settings.accepts k v.toNat = true) (hk : k.quietly = true) :
    manage (writeTransaction item v n) s =
      { s with port := donePort 7 n [] .done, settings := s.settings.put k v.toNat } := by
  rw [manage_of_quiet hq, writeTransaction_executes hn, writeItem_setting hi, writeSetting_quietly ha hk]
  exact finish_of_setting (quiet_still hq) hk _ _

/-- Settles O45: a setting that acts later touches no condition. -/
theorem settingWrites : Obligations.SettingWrites := by
  unfold Obligations.SettingWrites
  intro s v n quiet long
  have accepts_iff : ∀ k : Setting, s.settings.accepts k v.toNat = true ↔
      k.range.1 ≤ v.toNat ∧ v.toNat ≤ k.range.2
        ∧ (k = .silenceLimit → s.settings.keepaliveInterval < v.toNat)
        ∧ (k = .keepaliveInterval → v.toNat < s.settings.silenceLimit) := by
    intro k
    cases k <;> simp [Settings.accepts, and_assoc]
  refine ⟨?setting, ?divisor, rfl, accepts_iff, ?unmapped, ?readOnly⟩
  case setting =>
    intro j k listed
    have item := itemOf_setting listed
    refine ⟨fun refused => ?_, fun accepted present => ?_, fun accepted h1 h2 h3 => ?_⟩
    · exact congrArg Host.Outcome.next
        (manage_write quiet long ((writeItem_setting item v).trans (writeSetting_refused refused)))
    · exact congrArg Host.Outcome.next
        (manage_write quiet long ((writeItem_setting item v).trans (writeSetting_present accepted present)))
    · have later : k.quietly = true := by cases k <;> simp_all [Setting.quietly]
      exact congrArg Host.Outcome.next (manage_write_setting quiet long item accepted later)
  case divisor =>
    have item : itemOf 0x0010#16 = some (.setting .tickDivisor) := by decide
    have range : s.settings.accepts .tickDivisor v.toNat = true ↔ 1 ≤ v.toNat ∧ v.toNat ≤ 1023 := by
      rw [accepts_iff]
      simp [Setting.range]
    by_cases inside : 1 ≤ v.toNat ∧ v.toNat ≤ 1023
    · rw [if_pos inside]
      exact congrArg Host.Outcome.next (manage_write_setting quiet long item (range.mpr inside) rfl)
    · rw [if_neg inside]
      have refused : s.settings.accepts .tickDivisor v.toNat = false := by
        simpa using mt range.mp inside
      exact congrArg Host.Outcome.next
        (manage_write quiet long ((writeItem_setting item v).trans (writeSetting_refused refused)))
  case unmapped =>
    intro item unmapped
    exact congrArg Host.Outcome.next (manage_write quiet long (writeItem_unmapped unmapped v))
  case readOnly =>
    intro item row
    have readOnly : writeItem item v s = (s, .readOnly) := by
      simp only [List.mem_cons, List.not_mem_nil, or_false] at row
      rcases row with rfl | rfl | rfl | rfl | rfl | rfl | rfl | rfl | rfl <;> rfl
    exact congrArg Host.Outcome.next (manage_write quiet long readOnly)

/-! ### Window entries -/

theorem itemOf_entryItemNumber (i : WinIdx) (x : EntryItem) :
    itemOf (entryItemNumber i x) = some (.entry i x) := by
  revert i
  cases x <;> decide

theorem writeItem_entry (i : WinIdx) (x : EntryItem) (v : Word) :
    writeItem (entryItemNumber i x) v s = writeEntry i x v s := by
  simp only [writeItem, itemOf_entryItemNumber]

/-- A context in a state other than CLOSED makes its entry busy (R24). -/
theorem busy_iff {i : WinIdx} : (s.entry i).busy = true ↔
    (∃ c, s.source? i = some c ∧ c.state ≠ .closed) ∨ ∃ c, s.sink? i = some c ∧ c.state ≠ .closed := by
  simp only [source?_eq_some, sink?_eq_some]
  unfold Entry.busy
  cases (s.entry i).role <;> simp

/-- Settles O47: the four outcomes of a write, and the fields of the written entry. -/
theorem windowEntryWrite : Obligations.WindowEntryWrite := by
  unfold Obligations.WindowEntryWrite
  intro s i x v n quiet long
  have item := writeItem_entry (s := s) i x v
  refine ⟨?busy, ?closed⟩
  case busy =>
    intro isOpen
    have refused : writeEntry i x v s = (s, .refusedBusy) := by
      simp [writeEntry, busy_iff.mpr isOpen]
    exact congrArg Host.Outcome.next (manage_write quiet long (item.trans refused))
  case closed =>
    intro source sink
    have free : (s.entry i).busy = false := by
      rw [← Bool.not_eq_true, busy_iff]
      rintro (⟨c, ctx, ne⟩ | ⟨c, ctx, ne⟩)
      · exact ne (source c ctx)
      · exact ne (sink c ctx)
    refine ⟨fun range => ?_, fun range conflict => ?_, fun range conflict => ?_⟩
    · have refused : writeEntry i x v s = (s, .refusedRange) := by simp [writeEntry, free, range]
      exact congrArg Host.Outcome.next (manage_write quiet long (item.trans refused))
    · have refused : writeEntry i x v s = (s, .refusedConflict) := by simp [writeEntry, free, range, conflict]
      exact congrArg Host.Outcome.next (manage_write quiet long (item.trans refused))
    · have done : writeEntry i x v s = (s.setEntry i ((s.entry i).written x v), .done) := by
        simp [writeEntry, free, range, conflict]
      have run : exec (.windowEntryWrite i x v n) s = .next (finish
          { s.setEntry i ((s.entry i).written x v) with port := donePort 7 n [] .done }) := by
        change Host.Outcome.next (manage (writeTransaction (entryItemNumber i x) v n) s) = _
        rw [manage_of_quiet quiet, writeTransaction_executes long, item, done]
      have rests : State.accessRests { s.setEntry i ((s.entry i).written x v) with port := donePort 7 n [] .done } :=
        still_accessRests (s := s) (quiet_still quiet)
      obtain ⟨_, _, _, _, seed, _⟩ := still_iff.mp (quiet_still quiet)
      have entry : (finish { s.setEntry i ((s.entry i).written x v) with port := donePort 7 n [] .done }).entry i =
          (s.entry i).written x v := by
        rw [finish_entry rests]
        exact setEntry_entry_same s i _
      refine ⟨_, run, finish_port rests, ?_, finish_link rests, finish_sched rests, finish_acc rests,
        finish_seed_of_busy rests seed, finish_settings rests, ?_, ?_, ?_, ?_⟩
      · intro j hj
        rw [finish_entry rests]
        exact setEntry_entry_ne s i _ hj
      · rintro rfl; exact entry
      · rintro rfl; exact entry
      · rintro rfl; exact entry
      · rintro rfl
        rw [entry]
        simp only [Entry.written]
        congr 1

/-! ### FENCE -/

/-- A stream operation on the context the lookup finds, executed at a quiet part (R174). -/
theorem manage_streamOp {op : StreamOp} {id : StreamId} {i : WinIdx} {arg : Byte} {n : Nat} (hq : s.quiet = true)
    (hn : 3 < n) (hl : s.lookup id = some i) : manage (streamTransaction (id.setWidth 8) op.code arg n) s =
      finish { (streamOp op arg i s).1 with port := donePort 4 n [] (streamOp op arg i s).2 } := by
  rw [manage_of_quiet hq, streamTransaction_executes hn, streamCmd_of_lookup hl]

theorem manage_streamOp_refused {op : StreamOp} {id : StreamId} {i : WinIdx} {arg : Byte} {n : Nat} {r : Result}
    (hq : s.quiet = true) (hn : 3 < n) (hl : s.lookup id = some i) (h : streamOp op arg i s = (s, r)) :
    manage (streamTransaction (id.setWidth 8) op.code arg n) s = { s with port := donePort 4 n [] r } := by
  rw [manage_streamOp hq hn hl, h, finish_of_port_only (quiet_still hq)]

theorem streamOp_fence {i : WinIdx} {c : SourceCtx} (h : s.source? i = some c) (tag : Byte) :
    streamOp .fence tag i s = fenceSource i c tag s := by
  simp only [streamOp, source?_eq_some.mp h]

/-- One more record is one slot less free (R39). -/
theorem freeCount_push {i : WinIdx} {c d : SourceCtx} (hc : s.source? i = some c) (hd : d.queue.length = c.queue.length + 1)
    (hf : 1 ≤ s.freeCount) : (s.setRole i (.source d)).freeCount + 1 = s.freeCount := by
  have used : (s.setRole i (.source d)).usedSlots = s.usedSlots + 1 := by
    have count : ∀ j, (s.setRole i (.source d)).recordCount j = s.recordCount j + if j = i then 1 else 0 := by
      intro j
      simp only [State.recordCount, setRole_source?]
      by_cases hj : j = i
      · subst hj; simp [hc, hd]
      · simp [hj]
    have one : (allWindows.map fun j => if j = i then 1 else 0).sum = 1 := sum_windows_at i 1
    have sum : (allWindows.map (s.setRole i (.source d)).recordCount).sum = (allWindows.map s.recordCount).sum + 1 := by
      rw [← one, ← sum_windows_add]
      exact congrArg List.sum (List.map_congr_left fun j _ => count j)
    simp only [State.usedSlots, sum, setRole_acc, setRole_seed]
    omega
  simp only [State.freeCount, used] at hf ⊢
  omega

/-- Settles O51: the three refusals in their order, and the MARK at the tail. -/
theorem fenceOperation : Obligations.FenceOperation := by
  unfold Obligations.FenceOperation
  intro s id i c tag n quiet long found ctx
  have fence := streamOp_fence ctx tag
  refine ⟨fun state => ?_, fun journals outstanding => ?_, fun journals free full => ?_, fun journals free room => ?_⟩
  · have refused : fenceSource i c tag s = (s, .refusedState) := by simp [fenceSource, state]
    exact congrArg Host.Outcome.next (manage_streamOp_refused quiet long found (fence.trans refused))
  · have refused : fenceSource i c tag s = (s, .refusedBusy) := by simp [fenceSource, journals, outstanding]
    exact congrArg Host.Outcome.next (manage_streamOp_refused quiet long found (fence.trans refused))
  · have refused : fenceSource i c tag s = (s, .refusedNoSpace) := by simp [fenceSource, journals, free, full]
    exact congrArg Host.Outcome.next (manage_streamOp_refused quiet long found (fence.trans refused))
  · have stream : s.streamOf i = id := (lookup_some found).2
    have placed : fenceSource i c tag s = (s.setRole i (.source { c with
        fence := some tag, nextSeq := c.nextSeq + 1#16
        queue := c.queue ++ [{ stream := id, seq := c.nextSeq, kind := .mark, pos := .whole, offset := 0#32,
                               length := 0, data := some [], tag := some tag, status := .ready,
                               sentBefore := false }] }), .done) := by
      simp only [fenceSource, journals, free, room, modSource_some _ ctx, stream]
      rfl
    generalize hd : ({ c with
        fence := some tag, nextSeq := c.nextSeq + 1#16
        queue := c.queue ++ [{ stream := id, seq := c.nextSeq, kind := .mark, pos := .whole, offset := 0#32,
                               length := 0, data := some [], tag := some tag, status := .ready,
                               sentBefore := false }] } : SourceCtx) = d at placed
    have grown : d.queue.length = c.queue.length + 1 := by rw [← hd]; simp
    have ends : finish { s.setRole i (.source d) with port := donePort 4 n [] .done } =
        judgeIfOver { s.setRole i (.source d) with port := donePort 4 n [] .done } :=
      finish_of_still_heads (quiet_still quiet) rfl (still_accessRests (s := s) (quiet_still quiet))
        (setSource_applyHead ctx d) rfl rfl rfl
    have run := manage_streamOp (op := .fence) (arg := tag) quiet long found
    rw [fence, placed] at run
    refine ⟨_, congrArg Host.Outcome.next run, ?_, ?_⟩
    · rw [ends, judgeIfOver_frame]
    · rw [ends, judgeIfOver_frame]
      exact freeCount_push ctx grown (reserveOk_le room)

end Sys2Proof.Machine
end

section
/-! SUPPORT. Received frames at a calm part: what is delivered in UP and in DOWN, the frames discarded, and the frames the sink
stream controller answers (R89, R93, R94, R123, R139, R148). -/

namespace Sys2Proof.Machine

variable {s : State} {id : StreamId} {epoch : Epoch} {i : WinIdx}

/-! ### Delivery -/

theorem exec_frameCommand (f : Frame) : exec (frameCommand f) s = .next (received f s) := by
  cases f with
  | stream id epoch b => cases b <;> rfl
  | _ => rfl

theorem received_of_down (h : s.calm = true) (hl : s.link.state = .down) (f : Frame) : received f s = s := by
  have kept : whenReceiving (deliver f) s = s := by simp [whenReceiving, hl]
  rw [received, outside_of_calm h, kept, finish_of_still (calm_still h)]

/-- A valid stream frame in UP is counted, restarts the silence timer, and is dispatched (R86, R94). -/
theorem received_in_up (h : s.calm = true) (hl : s.link.state = .up) {b : Body}
    (hf : (Frame.stream id epoch b).formatOk = true) :
    received (.stream id epoch b) s = finish (dispatch id epoch b s.tookFrame) := by
  have delivered : whenReceiving (deliver (.stream id epoch b)) s = dispatch id epoch b s.tookFrame := by
    have counted : (modCounters (fun c => { c with framesReceived := c.framesReceived + 1#32 }) s).link.state = .up := hl
    unfold whenReceiving deliver validFrame
    rw [if_neg (by simp [hl]), if_pos hf]
    simp only [counted]
    rfl
  rw [received, outside_of_calm h, delivered]

/-- An event that changes the slots, flags, counters and link timers alone ends so. -/
theorem finish_of_link_sched {t : State} (h : s.still = true)
    (ht : t = { s with link := t.link, sched := t.sched, ev := t.ev }) (hl : t.link.state = s.link.state)
    (he : t.ev.cond = s.ev.cond) : finish t = t := by
  rw [ht]
  exact finish_of_still_same h rfl (still_accessRests (s := s) h) rfl rfl rfl rfl he rfl rfl hl rfl rfl

theorem finish_setCtlSlot_took (h : s.still = true) (x : Option CtlFrame) :
    finish (setCtlSlot id x s.tookFrame) = setCtlSlot id x s.tookFrame :=
  finish_of_link_sched h rfl rfl rfl

theorem finish_tookStale (h : s.still = true) : finish s.tookStale = s.tookStale :=
  finish_of_link_sched h rfl rfl rfl

theorem countStale_tookFrame (s : State) : countStale s.tookFrame = s.tookStale := rfl

/-- The windows of a part that has taken a frame are those it had. -/
theorem tookFrame_sink? (j : WinIdx) : s.tookFrame.sink? j = s.sink? j := rfl
theorem tookFrame_lookup : s.tookFrame.lookup id = s.lookup id := rfl

theorem place_took (hl : s.link.state = .up) (b : Body) :
    place id epoch b s.tookFrame = setCtlSlot id (some { epoch := epoch, body := b }) s.tookFrame :=
  place_of_up (s := s.tookFrame) hl id epoch b

/-! ### Frames discarded -/

/-- A reply or CLOSE of the context's epoch that its state does not take (R102, R149). -/
theorem takeAtSource_of_not_taken {c : SourceCtx} {b : Body} (h : c.state.takes b = false) :
    takeAtSource i c b s = countStale s := by
  unfold takeAtSource
  generalize c.state = st at h ⊢
  cases st <;> cases b <;> first
    | with_reducible rfl
    | cases h

/-- The replies, which the dispatch takes to a source context or discards (R94). -/
def isReply (b : Body) : Bool :=
  match b with
  | .openReq _ _ | .reopen _ _ | .record _ | .close _ => false
  | _ => true

theorem dispatch_reply {b : Body} (h : isReply b = true) : dispatch id epoch b s = match s.findsSource id with
    | some i => sourceFrame i epoch b s
    | none => countStale s := by
  cases b <;> first | rfl | cases h

/-- A frame for a source context the lookup finds (R94). -/
theorem dispatch_source {b : Body} {c : SourceCtx} (h : isReply b = true ∨ ∃ r, b = .close r)
    (hl : s.lookup id = some i) (hc : s.source? i = some c) : dispatch id epoch b s =
      if c.epoch = epoch then takeAtSource i c b s else countStale s := by
  have found : s.findsSource id = some i := findsSource_of_lookup hl hc
  have frame : sourceFrame i epoch b s = if c.epoch = epoch then takeAtSource i c b s else countStale s := by
    simp only [sourceFrame, hc]
  rcases h with h | ⟨r, rfl⟩
  · rw [dispatch_reply h, found]
    exact frame
  · rw [← frame]
    simp only [dispatch, found]

theorem isReply_of_ne {b : Body} (h1 : ∀ len r, b ≠ .openReq len r) (h2 : ∀ o n, b ≠ .reopen o n)
    (h3 : ∀ r, b ≠ .record r) : isReply b = true ∨ ∃ r, b = .close r := by
  cases b with
  | openReq len r => exact absurd rfl (h1 len r)
  | reopen o n => exact absurd rfl (h2 o n)
  | record r => exact absurd rfl (h3 r)
  | close r => exact .inr ⟨r, rfl⟩
  | _ => exact .inl rfl

theorem promotedFor_of_sink {c : SinkCtx} (hl : s.lookup id = some i) (hc : s.sink? i = some c) :
    s.promotedFor id epoch = none := by
  simp only [State.promotedFor, hl, source?_of_sink? hc]

theorem recordAtSink_of_sink {c : SinkCtx} (hl : s.lookup id = some i) (hc : s.sink? i = some c)
    (ho : c.state ≠ .closed) (r : RecBody) : recordAtSink id epoch r s = recordAtCtx i c epoch r s := by
  simp [recordAtSink, promotedFor_of_sink hl hc, hl, hc, ho]

/-- A frame that one stage of the receive checker discards (R93). -/
theorem exec_frameError (h : s.calm = true) (hl : s.link.state ≠ .down) (bs : List Byte) :
    exec (.frameError bs) s = .next (finish (deliverBytes bs s)) := by
  change Host.Outcome.next (outside (whenReceiving (deliverBytes bs)) s) = _
  rw [outside_of_calm h]
  simp [whenReceiving, hl]

/-- Settles O29: each of them comes to the count of its kind. -/
theorem framesDiscarded : Obligations.FramesDiscarded := by
  unfold Obligations.FramesDiscarded
  refine ⟨⟨?checked, ?down⟩, ?replies, ?records⟩
  case checked =>
    intro s bs calm link
    refine ⟨fun check => ?_, fun check => ?_⟩
    · rw [exec_frameError calm link]
      simp only [deliverBytes, check]
      exact congrArg Host.Outcome.next (finish_of_link_sched (calm_still calm) rfl rfl rfl)
    · rw [exec_frameError calm link]
      simp only [deliverBytes, check]
      exact congrArg Host.Outcome.next (finish_of_link_sched (calm_still calm) rfl rfl rfl)
  case down =>
    intro s calm link
    refine ⟨fun bs => ?_, fun f => ?_⟩
    · have kept : whenReceiving (deliverBytes bs) s = s := by simp [whenReceiving, link]
      change Host.Outcome.next (outside (whenReceiving (deliverBytes bs)) s) = _
      rw [outside_of_calm calm, kept, finish_of_still (calm_still calm)]
    · rw [exec_frameCommand, received_of_down calm link]
  case replies =>
    intro s id epoch b calm link format noOpen noReopen noRecord which
    have stale : dispatch id epoch b s.tookFrame = countStale s.tookFrame := by
      rcases which with ⟨noClose, unfound⟩ | ⟨i, c, ⟨found, ctx, _, _, untaken⟩ | ⟨i', c', found, ctx, other⟩⟩
      · rcases isReply_of_ne noOpen noReopen noRecord with reply | ⟨r, close⟩
        · rw [dispatch_reply reply, show s.tookFrame.findsSource id = none from unfound]
        · exact absurd close (noClose r)
      · rw [dispatch_source (s := s.tookFrame) (isReply_of_ne noOpen noReopen noRecord) found ctx,
          takeAtSource_of_not_taken untaken, ite_self]
      · rw [dispatch_source (s := s.tookFrame) (isReply_of_ne noOpen noReopen noRecord) found ctx, if_neg other]
    rw [exec_frameCommand, received_in_up calm link format, stale, countStale_tookFrame,
      finish_tookStale (calm_still calm)]
  case records =>
    intro s id epoch r i c calm link format found ctx isOpen other
    have stale : dispatch id epoch (.record r) s.tookFrame = countStale s.tookFrame := by
      change recordAtSink id epoch r s.tookFrame = _
      rw [recordAtSink_of_sink (s := s.tookFrame) found ctx isOpen, recordAtCtx, if_pos other]
    change exec (frameCommand (.stream id epoch (.record r))) s = _
    rw [exec_frameCommand, received_in_up (b := .record r) calm link format, stale, countStale_tookFrame,
      finish_tookStale (calm_still calm)]

/-! ### OPEN -/

theorem exec_stream_in_up (h : s.calm = true) (hl : s.link.state = .up) {b : Body}
    (hf : (Frame.stream id epoch b).formatOk = true) :
    exec (frameCommand (.stream id epoch b)) s = .next (finish (dispatch id epoch b s.tookFrame)) := by
  rw [exec_frameCommand, received_in_up h hl hf]

/-- A frame answered with a control frame alone (R97). -/
theorem exec_answered (h : s.calm = true) (hl : s.link.state = .up) {b answer : Body} {e : Epoch}
    (hf : (Frame.stream id epoch b).formatOk = true)
    (hd : dispatch id epoch b s.tookFrame = place id e answer s.tookFrame) :
    exec (frameCommand (.stream id epoch b)) s =
      .next (setCtlSlot id (some { epoch := e, body := answer }) s.tookFrame) := by
  rw [exec_stream_in_up h hl hf, hd, place_took hl, finish_setCtlSlot_took (calm_still h)]

theorem withdrawApply_frame (i : WinIdx) (s : State) :
    withdrawApply i s = { s with apply := (withdrawApply i s).apply } := by
  unfold withdrawApply
  split <;> rfl

/-- The sink context of a new pairing (R124). -/
def SinkCtx.paired (c : SinkCtx) (epoch : Epoch) : SinkCtx :=
  { c with state := .seeding, epoch := epoch, expected := 0#16, held := [], ackCount := 0, ackTimer := none,
           nakOutstanding := false, closeReason := .none }

/-- A new pairing, field by field (R124). -/
theorem newPairing_eq {c : SinkCtx} (hc : s.sink? i = some c) (hu : s.link.state = .up) :
    ∃ a, newPairing i epoch s = setCtlSlot (s.entry i).stream (some { epoch := epoch, body := .openAccept })
      (setAckFlag (s.entry i).stream none { s.setRole i (.sink (c.paired epoch)) with apply := a }) := by
  have stream : (s.setRole i (.sink (c.paired epoch))).streamOf i = (s.entry i).stream := by simp [State.streamOf]
  have paired : s.modSink i (fun c => { c.clearAck with
      state := .seeding, epoch := epoch, expected := 0#16, held := [], closeReason := .none }) =
      s.setRole i (.sink (c.paired epoch)) := modSink_some _ hc
  unfold newPairing
  rw [paired]
  dsimp only
  rw [stream, withdrawApply_frame]
  generalize (withdrawApply i (setAckFlag (s.entry i).stream none
    (s.setRole i (.sink (c.paired epoch))))).apply = a
  refine ⟨a, (place_of_up ?_ _ _ _).trans ?_⟩
  · exact hu
  · have stream' : State.streamOf { setAckFlag (s.entry i).stream none (s.setRole i (.sink (c.paired epoch))) with
        apply := a } i = (s.entry i).stream := stream
    rw [stream']
    rfl

/-- Settles O30: the refusals and the repeated acceptance place one frame; the rest is a new pairing. -/
theorem openFrame : Obligations.OpenFrame := by
  unfold Obligations.OpenFrame
  intro s id epoch length reason calm link
  refine ⟨fun none => ?_, fun i c found ctx => ?_, fun i c found ctx => ⟨fun other => ?_, fun same e state => ?_, ?_⟩⟩
  · exact exec_answered (b := .openReq length reason) calm link rfl (by
      simp only [dispatch, openAtSink, tookFrame_lookup, none])
  · exact exec_answered (b := .openReq length reason) calm link rfl (by
      simp only [dispatch, openAtSink, tookFrame_lookup, found, tookFrame_sink?, sink?_of_source? ctx])
  · have other' : length ≠ (s.tookFrame.entry i).length := other
    exact exec_answered (b := .openReq length reason) calm link rfl (by
      simp only [dispatch, openAtSink, tookFrame_lookup, found, tookFrame_sink?, ctx, if_pos other'])
  · have same' : ¬ length ≠ (s.tookFrame.entry i).length := fun ne => ne same
    exact exec_answered (b := .openReq length reason) calm link rfl (by
      simp only [dispatch, openAtSink, tookFrame_lookup, found, tookFrame_sink?, ctx, if_neg same']
      rw [if_pos ⟨e, state⟩])
  · intro same fresh
    have same' : ¬ length ≠ (s.tookFrame.entry i).length := fun ne => ne same
    have stream : (s.entry i).stream = id := (lookup_some found).2
    have paired : dispatch id epoch (.openReq length reason) s.tookFrame = newPairing i epoch s.tookFrame := by
      simp only [dispatch, openAtSink, tookFrame_lookup, found, tookFrame_sink?, ctx, if_neg same']
      rw [if_neg fresh]
    obtain ⟨a, eq⟩ := newPairing_eq (s := s.tookFrame) (epoch := epoch) ctx link
    have run := exec_stream_in_up (id := id) (epoch := epoch) (b := .openReq length reason) calm link rfl
    rw [paired, eq, show (s.tookFrame.entry i).stream = id from stream] at run
    generalize hu : setCtlSlot id (some { epoch := epoch, body := Body.openAccept })
      (setAckFlag id none { s.tookFrame.setRole i (.sink (c.paired epoch)) with apply := a }) = u at run
    have rests : u.accessRests := by rw [← hu]; exact still_accessRests (s := s) (calm_still calm)
    refine ⟨_, run, ?_, ?_, ?_, ?_⟩
    · rw [finish_sink? rests, ← hu]
      exact (setRole_sink? s.tookFrame i i _).trans (if_pos rfl)
    · rw [finish_sched rests, ← hu]; rfl
    · rw [finish_link rests, ← hu]; rfl
    · intro j hj
      rw [finish_entry rests, ← hu]
      exact setRole_entry_ne s.tookFrame i _ hj

end Sys2Proof.Machine
end

section
/-! SUPPORT. Received frames at a calm part, continued: the replies to an OPEN, the REOPEN, and the closes at both sides (R106,
R118, R119, R139, R140, R148). -/

namespace Sys2Proof.Machine

variable {s t u : State} {id : StreamId} {epoch : Epoch} {i : WinIdx}

/-! ### What a source transition leaves at the end of the event -/

theorem accessRests_of_eq (h : s.accessRests) (ha : t.acc = s.acc) (hb : t.bus = s.bus) : t.accessRests := by
  unfold State.accessRests
  rw [ha, hb]
  exact h

theorem SinkLocal.accessRests (h : SinkLocal i s t) (hs : s.accessRests) : t.accessRests :=
  accessRests_of_eq hs h.acc h.bus

/-- The access unit has nothing to take, and no pulse cause has a condition: what every event of a still part finds. -/
def State.poised (s : State) : Prop :=
  s.accessRests ∧ ∀ x : Cause, x.isPulse = true → s.ev.cond &&& x.bit = 0#13

theorem still_poised (h : s.still = true) : s.poised := ⟨still_accessRests h, fun _ => pulse_of_still h⟩

theorem State.poised.of_eq (h : s.poised) (ha : t.acc = s.acc) (hb : t.bus = s.bus) (hc : t.ev.cond = s.ev.cond) :
    t.poised :=
  ⟨accessRests_of_eq h.1 ha hb, fun x hx => by rw [hc]; exact h.2 x hx⟩

theorem SinkLocal.poised (h : SinkLocal i s t) (hs : s.poised) : t.poised := hs.of_eq h.acc h.bus h.ev.1

theorem finish_caused_of_poised {x : Cause} (hs : s.poised) (hp : x.isPulse = true) (hc : t.ev.cond = s.ev.cond)
    (h : t.caused x = true) : (finish t).caused x = true :=
  finish_caused hp (by rw [hc]; exact hs.2 x hp) h

/-- A fault, whichever event it belongs to (R115). -/
theorem fault_outcome {c : SourceCtx} (hs : s.poised) (hc : s.source? i = some c) (r : FaultReason) :
    (finish (faultStream i r s)).source? i = some (c.faulted r)
      ∧ (finish (faultStream i r s)).caused .streamFault = true
      ∧ (finish (faultStream i r s)).noticed (s.entry i).stream = true
      ∧ (finish (faultStream i r s)).link = s.link ∧ (finish (faultStream i r s)).sched = s.sched
      ∧ ∀ j, j ≠ i → (finish (faultStream i r s)).entry j = s.entry j := by
  have rests := faultStream_accessRests hc r hs.1
  have loc := faultStream_sourceLocal (i := i) (s := s) r
  refine ⟨?_, ?_, finish_noticed (faultStream_noticed hc r), ?_, ?_, fun j hj => ?_⟩
  · rw [finish_source? rests, faultStream_eq hc]
    simp
  · exact finish_caused_of_poised hs rfl loc.ev.1 (faultStream_caused hc r)
  · rw [finish_link rests, faultStream_link hc]
  · rw [finish_sched rests, faultStream_sched]
  · rw [finish_entry rests, loc.others j hj]

/-- The entry into CLOSED, whichever event it belongs to (R118). -/
theorem closed_outcome {c : SourceCtx} (hs : s.poised) (hc : s.source? i = some c) :
    (finish (enterClosed i s)).source? i = some c.closedNow
      ∧ (finish (enterClosed i s)).link = s.link ∧ (finish (enterClosed i s)).sched = s.sched
      ∧ ∀ j, j ≠ i → (finish (enterClosed i s)).entry j = s.entry j := by
  have loc := enterClosed_sourceLocal (i := i) (s := s)
  have eq := enterClosed_eq hc
  have rests : (enterClosed i s).accessRests :=
    accessRests_of_discard hs.1 (by rw [eq]; rfl) loc.bus
  refine ⟨?_, ?_, ?_, fun j hj => ?_⟩
  · rw [finish_source? rests, eq]
    simp
  · rw [finish_link rests, eq]
    rfl
  · rw [finish_sched rests, enterClosed_sched]
  · rw [finish_entry rests, loc.others j hj]

/-! ### Frames a source context takes -/

theorem tookFrame_still (h : s.still = true) : s.tookFrame.still = true := h

/-- A frame of the context's epoch comes to what the context's state takes of it (R94, R102). -/
theorem exec_source_frame {b : Body} {c : SourceCtx} (h : s.calm = true) (hl : s.link.state = .up)
    (hf : (Frame.stream id c.epoch b).formatOk = true) (hb : isReply b = true ∨ ∃ r, b = .close r)
    (hw : s.lookup id = some i) (hc : s.source? i = some c) :
    exec (frameCommand (.stream id c.epoch b)) s = .next (finish (takeAtSource i c b s.tookFrame)) := by
  rw [exec_stream_in_up h hl hf, dispatch_source (s := s.tookFrame) hb hw hc, if_pos rfl]

/-- Settles O31: an accepted stream joins the seed queue, a refused one faults. -/
theorem openReplies : Obligations.OpenReplies := by
  unfold Obligations.OpenReplies
  intro s id i c calm link found ctx state
  have still := tookFrame_still (calm_still calm)
  have ctx' : s.tookFrame.source? i = some c := ctx
  refine ⟨?accept, fun r => ?refuse⟩
  case accept =>
    have taken : takeAtSource i c .openAccept s.tookFrame = joinSeedQueue i (s.tookFrame.setRole i (.source
        { c with state := .seeding, ctlTimer := none, triesLeft := 0, openReason := none })) := by
      unfold takeAtSource
      rw [state]
      exact congrArg (joinSeedQueue i) (modSource_some _ ctx')
    have run := exec_source_frame (b := .openAccept) calm link rfl (.inl rfl) found ctx
    rw [taken] at run
    generalize hd : ({ c with state := .seeding, ctlTimer := none, triesLeft := 0, openReason := none } : SourceCtx) = d
      at run
    have rests : (joinSeedQueue i (s.tookFrame.setRole i (.source d))).accessRests :=
      still_accessRests (s := s) (calm_still calm)
    have high : (joinSeedQueue i (s.tookFrame.setRole i (.source d))).resetLow = false :=
      calm_resetLow (s := s) calm
    have seed : (joinSeedQueue i (s.tookFrame.setRole i (.source d))).seed =
        { s.seed with queue := s.seed.queue ++ [i] } := rfl
    have source : (joinSeedQueue i (s.tookFrame.setRole i (.source d))).source? i = some d :=
      (setRole_source? s.tookFrame i i (.source d)).trans (if_pos rfl)
    refine ⟨_, run, (finish_source? rests i).trans source, fun idle => ?_, fun busy => ?_, finish_link rests,
      finish_sched rests, fun j hj => ?_⟩
    · obtain ⟨_, _, _, _, queue, _, _⟩ := still_iff.mp still
      have empty : s.seed.queue = [] := queue.resolve_left (fun h => h idle)
      rw [finish_seed high rests]
      obtain ⟨active, rest, count, _⟩ := seedTake_head (s := joinSeedQueue i (s.tookFrame.setRole i (.source d)))
        (n := i) (rest := []) (by rw [seed]; exact idle) (by rw [seed, empty]; rfl) (by rw [source]; rfl)
      exact ⟨active, count, rest⟩
    · rw [finish_seed_of_busy rests (.inl (by rw [seed]; exact busy)), seed]
    · rw [finish_entry rests]
      exact setRole_entry_ne s.tookFrame i _ hj
  case refuse =>
    have taken : takeAtSource i c (.openRefuse r) s.tookFrame = faultStream i (RefuseReason.fault r) s.tookFrame := by
      unfold takeAtSource
      rw [state]
    have run := exec_source_frame (b := .openRefuse r) calm link rfl (.inl rfl) found ctx
    rw [taken] at run
    obtain ⟨source, fault, notice, _, _, others⟩ := fault_outcome (still_poised still) ctx' (RefuseReason.fault r)
    refine ⟨_, _, run, source, rfl, rfl, rfl, rfl, rfl, rfl, ?_, fault, notice, others⟩
    cases r <;> rfl

/-! ### REOPEN -/

theorem promotedFor_of_source {c : SourceCtx} {p : Promotion} (hl : s.lookup id = some i) (hc : s.source? i = some c)
    (hp : (s.entry i).promotion = some p) (he : p.epoch = epoch) : s.promotedFor id epoch = some p := by
  simp only [State.promotedFor, hl, hc, hp, if_pos he]

/-- Without a promotion in its epoch no PROMOTED is due (R148). -/
theorem promotedFor_none {c : SourceCtx} (hl : s.lookup id = some i) (hc : s.source? i = some c)
    (hp : ∀ p, (s.entry i).promotion = some p → p.epoch ≠ epoch) : s.promotedFor id epoch = none := by
  simp only [State.promotedFor, hl, hc]
  cases hq : (s.entry i).promotion with
  | none => rfl
  | some p => exact if_neg (hp p hq)

theorem promotedFor_of_no_window (hl : s.lookup id = none) : s.promotedFor id epoch = none := by
  simp only [State.promotedFor, hl]

/-- The sink context that has given CONTINUE (R139). -/
def SinkCtx.continued (c : SinkCtx) : SinkCtx :=
  { c with held := c.held.filter (·.underOp), ackCount := 0, ackTimer := none, nakOutstanding := false
           state := if c.state = .suspended then c.prior.sinkState else c.state }

/-- A CONTINUE, field by field (R139). -/
theorem giveContinue_eq {c : SinkCtx} (hc : s.sink? i = some c) (hu : s.link.state = .up) :
    ∃ a, giveContinue i c s = setAckFlag (s.entry i).stream none { (setCtlSlot (s.entry i).stream
      (some { epoch := c.epoch, body := .reopenReply .continues c.appliedPoint }) s).setRole i (.sink c.continued) with
        apply := a } := by
  have placed : place (s.streamOf i) c.epoch (.reopenReply .continues c.appliedPoint) s =
      setCtlSlot (s.entry i).stream (some { epoch := c.epoch, body := .reopenReply .continues c.appliedPoint }) s :=
    place_of_up hu _ _ _
  generalize hs : setCtlSlot (s.entry i).stream
    (some { epoch := c.epoch, body := .reopenReply .continues c.appliedPoint }) s = u at placed
  have ctx : u.sink? i = some c := by rw [← hs]; exact hc
  have stream : (u.setRole i (.sink c.continued)).streamOf i = (s.entry i).stream := by
    rw [← hs]; simp [State.streamOf]
  unfold giveContinue
  rw [placed]
  dsimp only
  rw [modSink_some _ ctx]
  change ∃ a, withdrawApply i (setAckFlag ((u.setRole i (.sink c.continued)).streamOf i) none
    (u.setRole i (.sink c.continued))) = _
  rw [stream, withdrawApply_frame]
  exact ⟨_, rfl⟩

theorem reopenAtSink_of_sink {c : SinkCtx} (hl : s.lookup id = some i) (hc : s.sink? i = some c) (o n : Seq) :
    reopenAtSink id epoch o n s =
      if c.state ≠ .closed ∧ c.epoch = epoch ∧ seqLe o c.appliedPoint ∧ seqLe c.appliedPoint n then giveContinue i c s
      else place id epoch (.reopenReply .stale 0#16) s := by
  simp only [reopenAtSink, promotedFor_of_sink hl hc, hl, Option.bind_some, hc, Option.map_some]

theorem reopenAtSink_of_no_sink (hp : s.promotedFor id epoch = none)
    (hn : ∀ i, s.lookup id = some i → s.sink? i = none) (o n : Seq) :
    reopenAtSink id epoch o n s = place id epoch (.reopenReply .stale 0#16) s := by
  cases hl : s.lookup id with
  | none => simp only [reopenAtSink, hp, hl, Option.bind_none]
  | some i => simp only [reopenAtSink, hp, hl, Option.bind_some, hn i hl, Option.map_none]

/-- Settles O32: a PROMOTION record answers, a sink in range continues, all else is STALE. -/
theorem reopenFrame : Obligations.ReopenFrame := by
  unfold Obligations.ReopenFrame
  intro s id epoch o n calm link
  refine ⟨fun i c p found ctx promotion same => ?_, fun i c found ctx isOpen same low high => ?_, fun cases => ?_⟩
  · refine exec_answered (b := .reopen o n) calm link rfl ?_
    have promoted : s.tookFrame.promotedFor id epoch = some p :=
      promotedFor_of_source (s := s.tookFrame) found ctx promotion same
    simp only [dispatch, reopenAtSink, promoted, placePromoted, same]
  · have continues : dispatch id epoch (.reopen o n) s.tookFrame = giveContinue i c s.tookFrame := by
      change reopenAtSink id epoch o n s.tookFrame = _
      rw [reopenAtSink_of_sink (s := s.tookFrame) found ctx, if_pos ⟨isOpen, same, low, high⟩]
    have stream : (s.tookFrame.entry i).stream = id := (lookup_some found).2
    obtain ⟨a, eq⟩ := giveContinue_eq (s := s.tookFrame) ctx link
    have run := exec_stream_in_up (id := id) (epoch := epoch) (b := .reopen o n) calm link rfl
    rw [continues] at run
    have loc := giveContinue_sinkLocal (i := i) (s := s.tookFrame) c
    have rests := loc.accessRests (still_accessRests (tookFrame_still (calm_still calm)))
    refine ⟨_, run, ?_, ?_, ?_, ?_, fun j hj => ?_⟩
    · rw [finish_ctlSlot rests, eq, stream, same, setAckFlag_ctlSlot]
      exact (setCtlSlot_ctlSlot s.tookFrame _ _ _).trans (if_pos rfl)
    · rw [finish_ackFlag rests, eq, stream, setAckFlag_ackFlag, if_pos rfl]
    · rw [finish_sink? rests, eq]
      exact (setRole_sink? _ i i _).trans (if_pos rfl)
    · rw [finish_link rests, eq]
      rfl
    · rw [finish_entry rests, loc.others j hj]
      rfl
  · refine exec_answered (b := .reopen o n) calm link rfl ?_
    change reopenAtSink id epoch o n s.tookFrame = _
    rcases cases with unfound | ⟨i, c, found, ctx, other⟩ | ⟨i, c, found, ctx, other⟩
    · exact reopenAtSink_of_no_sink (s := s.tookFrame) (promotedFor_of_no_window (s := s.tookFrame) unfound)
        (fun k hk => absurd (hk.symm.trans unfound) (by simp)) o n
    · refine reopenAtSink_of_no_sink (s := s.tookFrame) (promotedFor_none (s := s.tookFrame) found ctx other)
        (fun k hk => ?_) o n
      have same : k = i := Option.some.inj (hk.symm.trans found)
      subst same
      exact sink?_of_source? (s := s.tookFrame) ctx
    · rw [reopenAtSink_of_sink (s := s.tookFrame) found ctx, if_neg]
      rintro ⟨isOpen, same, low, high⟩
      rcases other with h | h | h | h
      · exact isOpen h
      · exact h same
      · rw [low] at h; cases h
      · rw [high] at h; cases h

/-! ### CLOSE and CLOSE_ACK -/

/-- The sink context that closes (R140, R141, R142). -/
def SinkCtx.closedFor (c : SinkCtx) (r : CloseReason) : SinkCtx :=
  { c with state := .closed, closeReason := r, held := [], ackCount := 0, ackTimer := none, nakOutstanding := false }

/-- The close of a sink context, field by field (R140, R141, R142). -/
theorem closeSinkCtx_eq {c : SinkCtx} (hc : s.sink? i = some c) (r : CloseReason) :
    ∃ a, closeSinkCtx i r s =
      setAckFlag (s.entry i).stream none { s.setRole i (.sink (c.closedFor r)) with apply := a } := by
  have closed : s.modSink i (fun c => { c.clearAck with state := .closed, closeReason := r, held := [] }) =
      s.setRole i (.sink (c.closedFor r)) := modSink_some _ hc
  have stream : (s.setRole i (.sink (c.closedFor r))).streamOf i = (s.entry i).stream := by simp [State.streamOf]
  unfold closeSinkCtx
  rw [closed]
  dsimp only
  rw [stream, withdrawApply_frame]
  exact ⟨_, rfl⟩

theorem closeAtSink_of_sink {c : SinkCtx} (hl : s.lookup id = some i) (hc : s.sink? i = some c) :
    closeAtSink id epoch s = if c.state ≠ .closed ∧ c.epoch = epoch then
        place id epoch .closeAck (raise .streamClosed (noticeWin i (closeSinkCtx i .peer s)))
      else place id epoch .closeAck s := by
  simp only [closeAtSink, hl, Option.bind_some, hc, Option.map_some]

/-- A CLOSE that finds no source context goes to the sink stream controller (R94). -/
theorem dispatch_close_at_sink (h : s.findsSource id = none) (r : CloseCode) :
    dispatch id epoch (.close r) s = closeAtSink id epoch s := by
  simp only [dispatch, h]

theorem findsSource_of_sink {c : SinkCtx} (hl : s.lookup id = some i) (hc : s.sink? i = some c) :
    s.findsSource id = none := by
  simp [State.findsSource, hl, source?_of_sink? hc]

theorem findsSource_of_no_window (hl : s.lookup id = none) : s.findsSource id = none := by
  simp [State.findsSource, hl]

/-- Settles O34: the source's fault or close, the sink's close, or the acknowledgement alone. -/
theorem closeFrames : Obligations.CloseFrames := by
  unfold Obligations.CloseFrames
  intro s id epoch reason calm link
  have still := tookFrame_still (calm_still calm)
  refine ⟨fun i c found ctx same => ⟨fun state => ?fault, fun state cmd which => ?closing⟩,
    fun i c found ctx same isOpen => ?sink, fun cases => ?ack⟩
  case fault =>
    subst same
    have ctx' : s.tookFrame.source? i = some c := ctx
    have taken : takeAtSource i c (.close reason) s.tookFrame = faultStream i .peerClosed s.tookFrame := by
      unfold takeAtSource
      rcases state with h | h | h | h <;> rw [h]
    have run := exec_source_frame (b := .close reason) calm link rfl (.inr ⟨_, rfl⟩) found ctx
    rw [taken] at run
    obtain ⟨source, fault, _, _, sched, _⟩ := fault_outcome (still_poised still) ctx' .peerClosed
    exact ⟨_, _, run, source, rfl, rfl, rfl, rfl, fault, sched⟩
  case closing =>
    subst same
    have ctx' : s.tookFrame.source? i = some c := ctx
    have run : exec cmd s = .next (finish (enterClosed i s.tookFrame)) := by
      rcases which with rfl | rfl
      · have run := exec_source_frame (b := .close reason) calm link rfl (.inr ⟨_, rfl⟩) found ctx
        have taken : takeAtSource i c (.close reason) s.tookFrame = enterClosed i s.tookFrame := by
          unfold takeAtSource
          rw [state]
        rw [taken] at run
        exact run
      · have run := exec_source_frame (b := .closeAck) calm link rfl (.inl rfl) found ctx
        have taken : takeAtSource i c .closeAck s.tookFrame = enterClosed i s.tookFrame := by
          unfold takeAtSource
          rw [state]
        rw [taken] at run
        exact run
    obtain ⟨source, _, _, _⟩ := closed_outcome (still_poised still) ctx'
    exact ⟨_, _, run, source, rfl, rfl, rfl, rfl, rfl, rfl⟩
  case sink =>
    have stream : (s.tookFrame.entry i).stream = id := (lookup_some found).2
    have closes : dispatch id epoch (.close reason) s.tookFrame = place id epoch .closeAck
        (raise .streamClosed (noticeWin i (closeSinkCtx i .peer s.tookFrame))) := by
      rw [dispatch_close_at_sink (findsSource_of_sink (s := s.tookFrame) found ctx),
        closeAtSink_of_sink (s := s.tookFrame) found ctx, if_pos ⟨isOpen, same⟩]
    have loc := closeSinkCtx_sinkLocal (i := i) (s := s.tookFrame) .peer
    obtain ⟨a, eq⟩ := closeSinkCtx_eq (s := s.tookFrame) (i := i) ctx .peer
    generalize closeSinkCtx i .peer s.tookFrame = v at *
    have up : (raise .streamClosed (noticeWin i v)).link.state = .up := by rw [eq]; exact link
    have rests : (setCtlSlot id (some { epoch := epoch, body := .closeAck })
        (raise .streamClosed (noticeWin i v))).accessRests :=
      accessRests_of_eq (loc.accessRests (still_accessRests still)) rfl rfl
    have run := exec_stream_in_up (id := id) (epoch := epoch) (b := .close reason) calm link rfl
    rw [closes, place_of_up up] at run
    refine ⟨_, run, ?_, ?_, ?_, ?_, ?_, fun j hj => ?_⟩
    · rw [finish_sink? rests]
      change v.sink? i = _
      rw [eq]
      exact (setRole_sink? _ i i _).trans (if_pos rfl)
    · refine finish_caused_of_poised (still_poised still) rfl ?_ (caused_of_raise (e := (noticeWin i v).ev) rfl)
      exact loc.ev.1
    · refine finish_noticed (noticed_of_addNotice (e := v.ev) ?_)
      change (v.ev.addNotice (s.tookFrame.entry i).stream).Grows ((v.ev.addNotice (v.entry i).stream).raise _)
      rw [loc.config.2.2.1]
      exact EventUnit.raise_grows _ _
    · rw [finish_ctlSlot rests, setCtlSlot_ctlSlot, if_pos rfl]
    · rw [finish_ackFlag rests]
      change v.ackFlag (s.tookFrame.entry i).stream = none
      rw [eq, setAckFlag_ackFlag, if_pos rfl]
    · rw [finish_entry rests]
      exact loc.others j hj
  case ack =>
    refine exec_answered (b := .close reason) calm link rfl ?_
    rcases cases with unfound | ⟨i, c, found, ctx, other⟩
    · rw [dispatch_close_at_sink (findsSource_of_no_window (s := s.tookFrame) unfound)]
      simp only [closeAtSink, tookFrame_lookup, unfound, Option.bind_none]
    · rw [dispatch_close_at_sink (findsSource_of_sink (s := s.tookFrame) found ctx),
        closeAtSink_of_sink (s := s.tookFrame) found ctx, if_neg]
      rintro ⟨isOpen, same⟩
      exact other.elim isOpen (fun h => h same)

end Sys2Proof.Machine
end

section
/-! SUPPORT. Freeing as one replacement of the context, and the frames that free: ACK and NAK, the CONTINUE of a REOPEN_REPLY,
and PROMOTED (R52, R53, R58, R108, R109, R110, R112, R149). -/

namespace Sys2Proof.Machine

variable {s t u : State} {id : StreamId} {epoch : Epoch} {i : WinIdx} {c : SourceCtx}

/-! ### A source context with the offers and the event unit -/

/-- The state with the source context of window `i`, the offers and the event unit replaced. -/
def State.sourced (s : State) (i : WinIdx) (d : SourceCtx) (o : Offers) (e : EventUnit) : State :=
  { s.setRole i (.source d) with offers := o, ev := e }

section Sourced

variable (d : SourceCtx) (o : Offers) (e : EventUnit)

theorem sourced_self (h : s.source? i = some c) : s.sourced i c s.offers s.ev = s := by
  have role : (s.entry i).role = .source c := source?_eq_some.mp h
  have same : s.setRole i (.source c) = s := by
    unfold State.setRole
    rw [← role]
    exact setEntry_self s i
  unfold State.sourced
  rw [same]

@[simp] theorem sourced_source? (j : WinIdx) : (s.sourced i d o e).source? j = if j = i then some d else s.source? j :=
  setRole_source? s i j (.source d)

@[simp] theorem sourced_entry (j : WinIdx) : (s.sourced i d o e).entry j =
    if j = i then { s.entry i with role := .source d } else s.entry j :=
  setRole_entry s i j (.source d)

@[simp] theorem sourced_acc : (s.sourced i d o e).acc = s.acc := rfl
@[simp] theorem sourced_seed : (s.sourced i d o e).seed = s.seed := rfl
@[simp] theorem sourced_bus : (s.sourced i d o e).bus = s.bus := rfl
@[simp] theorem sourced_link : (s.sourced i d o e).link = s.link := rfl
@[simp] theorem sourced_sched : (s.sourced i d o e).sched = s.sched := rfl
@[simp] theorem sourced_offers : (s.sourced i d o e).offers = o := rfl
@[simp] theorem sourced_ev : (s.sourced i d o e).ev = e := rfl
@[simp] theorem sourced_settings : (s.sourced i d o e).settings = s.settings := rfl
@[simp] theorem sourced_resetLow : (s.sourced i d o e).resetLow = s.resetLow := rfl

theorem sourced_modSource (f : SourceCtx → SourceCtx) :
    (s.sourced i d o e).modSource i f = s.sourced i (f d) o e := by
  rw [modSource_some f (c := d) (by simp)]
  exact congrArg (fun t : State => { t with offers := o, ev := e }) (setRole_setRole s i (.source d) (.source (f d)))

theorem sourced_sourced (d' : SourceCtx) (o' : Offers) (e' : EventUnit) :
    (s.sourced i d o e).sourced i d' o' e' = s.sourced i d' o' e' :=
  congrArg (fun t : State => { t with offers := o', ev := e' }) (setRole_setRole s i (.source d) (.source d'))

theorem sourced_notice (x : Cause) : raise x (noticeWin i (s.sourced i d o e)) =
    s.sourced i d o ((e.addNotice (s.entry i).stream).raise x) := by
  have stream : (s.sourced i d o e).streamOf i = (s.entry i).stream := by simp [State.streamOf]
  simp only [noticeWin, stream]
  rfl

end Sourced

theorem modSource_sourced (f : SourceCtx → SourceCtx) (h : s.source? i = some c) :
    s.modSource i f = s.sourced i (f c) s.offers s.ev := modSource_some f h

/-! ### Freeing -/

/-- The records that freeing up to `e` takes from the head (R52). -/
def SourceCtx.goneBefore (c : SourceCtx) (e : Seq) : List Record := c.queue.take (e - c.oldest).toNat

/-- Freeing up to `e` ends the seeding (R53, R110). -/
def SourceCtx.endsSeeding (c : SourceCtx) (e : Seq) : Prop :=
  (c.goneBefore e).any (·.kind == .seedEnd) = true ∧ c.state = .seeding

/-- The context that has freed every record before `e` (R52, R53, R58). -/
def SourceCtx.freed (c : SourceCtx) (e : Seq) : SourceCtx :=
  { c with
    queue := c.queue.drop (e - c.oldest).toNat, oldest := e
    fence := if (freedMark (c.goneBefore e)).isSome then none else c.fence
    lastFence := match freedMark (c.goneBefore e) with
      | some tag => some (.completed, tag)
      | none => c.lastFence
    state := if (c.goneBefore e).any (·.kind == .seedEnd) = true ∧ c.state = .seeding then .live else c.state }

/-- The event unit that has been told what freeing has ended (R53, R58). -/
def freedEv (id : StreamId) (c : SourceCtx) (e : Seq) (v : EventUnit) : EventUnit :=
  let v' := if (freedMark (c.goneBefore e)).isSome then (v.addNotice id).raise .fenceDone else v
  if (c.goneBefore e).any (·.kind == .seedEnd) = true ∧ c.state = .seeding then (v'.addNotice id).raise .streamLive
  else v'

theorem seedEndFreed_sourced (d : SourceCtx) (o : Offers) (e : EventUnit) :
    seedEndFreed i (s.sourced i d o e) = if d.state = .seeding then
        s.sourced i { d with state := .live } o ((e.addNotice (s.entry i).stream).raise .streamLive)
      else s.sourced i d o e := by
  have ctx : (s.sourced i d o e).source? i = some d := by simp
  unfold seedEndFreed
  rw [ctx]
  dsimp only
  rw [sourced_modSource, sourced_notice]

theorem endFence_sourced (d : SourceCtx) (o : Offers) (e : EventUnit) (x : FenceOutcome) (tag : Tag) :
    endFence i x tag (s.sourced i d o e) = s.sourced i { d with fence := none, lastFence := some (x, tag) } o
      ((e.addNotice (s.entry i).stream).raise .fenceDone) := by
  unfold endFence
  rw [sourced_modSource, sourced_notice]

/-- Freeing as one replacement of the context (R52, R53). -/
theorem freeBefore_sourced (h : s.source? i = some c) (e : Seq) :
    freeBefore i e s = s.sourced i (c.freed e)
      (if (e - c.oldest).toNat = 0 then s.offers else { held := true, seed := true })
      (freedEv (s.entry i).stream c e s.ev) := by
  generalize ho : (if (e - c.oldest).toNat = 0 then s.offers else { held := true, seed := true }) = o
  have dropped : (if (e - c.oldest).toNat = 0 then
        s.modSource i (fun c' => { c' with queue := c'.queue.drop (e - c.oldest).toNat, oldest := e })
      else release (s.modSource i fun c' => { c' with queue := c'.queue.drop (e - c.oldest).toNat, oldest := e })) =
      s.sourced i { c with queue := c.queue.drop (e - c.oldest).toNat, oldest := e } o s.ev := by
    rw [modSource_sourced _ h, ← ho]
    split
    · rfl
    · rfl
  generalize hd : ({ c with queue := c.queue.drop (e - c.oldest).toNat, oldest := e } : SourceCtx) = d at dropped
  have ends : ∀ (d' : SourceCtx) (v : EventUnit), d'.state = c.state →
      (if (c.goneBefore e).any (·.kind == .seedEnd) then seedEndFreed i (s.sourced i d' o v) else s.sourced i d' o v) =
      s.sourced i
        { d' with state :=
            if (c.goneBefore e).any (·.kind == .seedEnd) = true ∧ c.state = .seeding then .live else c.state } o
        (if (c.goneBefore e).any (·.kind == .seedEnd) = true ∧ c.state = .seeding then
          (v.addNotice (s.entry i).stream).raise .streamLive else v) := by
    intro d' v same
    rw [seedEndFreed_sourced, ← same]
    by_cases ended : (c.goneBefore e).any (·.kind == .seedEnd) = true
    · by_cases seeding : d'.state = .seeding
      · simp only [ended, seeding, and_self, if_true]
      · simp only [ended, seeding, and_false, if_true, if_false]
    · simp only [ended, false_and, if_false, Bool.false_eq_true]
  unfold freeBefore
  rw [h]
  dsimp only
  rw [dropped, show c.queue.take (e - c.oldest).toNat = c.goneBefore e from rfl]
  unfold SourceCtx.freed freedEv
  cases freedMark (c.goneBefore e) with
  | none =>
      dsimp only
      rw [ends _ _ (by rw [← hd]), ← hd]
      rfl
  | some tag =>
      dsimp only
      rw [endFence_sourced, ends _ _ (by rw [← hd]), ← hd]
      rfl

theorem freedEv_grows (id : StreamId) (c : SourceCtx) (e : Seq) (v : EventUnit) : v.Grows (freedEv id c e v) := by
  have fence : v.Grows (if (freedMark (c.goneBefore e)).isSome then (v.addNotice id).raise .fenceDone else v) := by
    split
    · exact (v.addNotice_grows id).trans (EventUnit.raise_grows _ _)
    · exact EventUnit.Grows.refl v
  unfold freedEv
  dsimp only
  split
  · exact (fence.trans (EventUnit.addNotice_grows _ id)).trans (EventUnit.raise_grows _ _)
  · exact fence

/-- A completed fence is told (R58). -/
theorem freedEv_fenceDone {v : EventUnit} {e : Seq} (ht : t.ev = freedEv id c e v)
    (h : (freedMark (c.goneBefore e)).isSome = true) : t.caused .fenceDone = true ∧ t.noticed id = true := by
  have later : ((v.addNotice id).raise .fenceDone).Grows t.ev := by
    rw [ht]
    unfold freedEv
    dsimp only
    rw [if_pos h]
    split
    · exact (EventUnit.addNotice_grows _ id).trans (EventUnit.raise_grows _ _)
    · exact EventUnit.Grows.refl _
  refine ⟨?_, noticed_of_addNotice ((EventUnit.raise_grows _ _).trans later)⟩
  exact caused_iff.mpr (mask_grows later.raised (raise_pending _ _))

/-- The end of a seeding is told (R110). -/
theorem freedEv_streamLive {v : EventUnit} {e : Seq} (ht : t.ev = freedEv id c e v) (h : c.endsSeeding e) :
    t.caused .streamLive = true ∧ t.noticed id = true := by
  have told : t.ev = (EventUnit.addNotice id (if (freedMark (c.goneBefore e)).isSome then
      (v.addNotice id).raise .fenceDone else v)).raise .streamLive := by
    rw [ht]
    unfold freedEv
    dsimp only
    obtain ⟨ended, seeding⟩ := h
    rw [if_pos ⟨ended, seeding⟩]
  exact ⟨caused_of_raise told, noticed_of_addNotice (by rw [told]; exact EventUnit.raise_grows _ _)⟩

/-! ### The end of an event that has released slots -/

theorem finish_offers (hr : s.resetLow = false) (h : s.accessRests) (hs : s.seed.phase ≠ .idle ∨ s.seed.queue = []) :
    (finish s).offers = { held := s.heldOfferDue, seed := s.seedOfferDue } := by
  unfold finish
  rw [if_neg (by simp [hr]), judgeIfOver_frame, takePresented_of_busy h, seedTake_of_busy hs, applyChoose_frame]
  rfl

/-- Each waiter is offered what an event has released (R47). -/
theorem finish_offersDue (hr : s.resetLow = false) (h : s.accessRests) (hs : s.seed.phase ≠ .idle ∨ s.seed.queue = [])
    (ho : s.offers = { held := true, seed := true }) :
    (finish s).heldOfferDue = s.isHeld ∧ (finish s).seedOfferDue = s.seedWaits := by
  have seed := finish_seed_of_busy h hs
  refine ⟨?_, ?_⟩
  · unfold State.heldOfferDue
    rw [finish_offers hr h hs, finish_isHeld h]
    simp [State.heldOfferDue, ho]
  · unfold State.seedOfferDue State.seedWaits
    rw [finish_offers hr h hs, seed]
    simp [State.seedOfferDue, State.seedWaits, ho]

/-! ### ACK and NAK -/

theorem takeAck_of_in_range {a : Seq} (h : s.source? i = some c)
    (hr : (a - c.oldest).toNat < (c.txPtr - c.oldest).toNat) :
    takeAck i c a s = s.sourced i (SourceCtx.freed { c with
        retryCount := 0, retxTimer := if a + 1#16 = c.txPtr then none else some s.settings.retxTimeout } (a + 1#16))
      (if (a + 1#16 - c.oldest).toNat = 0 then s.offers else { held := true, seed := true })
      (freedEv (s.entry i).stream c (a + 1#16) s.ev) := by
  unfold takeAck
  rw [if_pos hr]
  dsimp only
  rw [modSource_sourced _ h, freeBefore_sourced (c := { c with
    retryCount := 0, retxTimer := if a + 1#16 = c.txPtr then none else some s.settings.retxTimeout }) (by simp),
    sourced_sourced]
  simp only [sourced_offers, sourced_ev, sourced_entry, if_true]
  rfl

/-- The number of records an ACK in range frees. -/
theorem ack_count {a o p : Seq} (h : (a - o).toNat < (p - o).toNat) : (a + 1#16 - o).toNat = (a - o).toNat + 1 := by
  have := (p - o).isLt
  bv_omega

theorem takeNak_of_in_range {a : Seq} (h : s.source? i = some c)
    (hr : (a - c.oldest).toNat ≤ (c.txPtr - c.oldest).toNat) :
    takeNak i c a s = s.sourced i { (c.freed a).rewind a with
        retxTimer := none, retryCount := if a = c.oldest then c.retryCount else 0 }
      (if (a - c.oldest).toNat = 0 then s.offers else { held := true, seed := true })
      (freedEv (s.entry i).stream c a s.ev) := by
  unfold takeNak
  rw [if_pos hr]
  dsimp only
  rw [freeBefore_sourced h, sourced_modSource]
  rfl

/-- A rewind as the statements write it (R54). -/
theorem rewind_queue (q : List Record) (a : Seq) : (q.map fun r => if seqLe a r.seq then r.toReady else r) =
    q.map fun r => if r.status = .inFlight ∧ seqLe a r.seq = true then { r with status := .ready } else r := by
  refine List.map_congr_left fun r _ => ?_
  cases hs : r.status <;> cases seqLe a r.seq <;> simp [Record.toReady, hs]

/-- A stream that was open keeps its state or is LIVE. -/
theorem freed_state {e : Seq} (h : c.state = .seeding ∨ c.state = .live) :
    (c.freed e).state = if (c.goneBefore e).any (·.kind == .seedEnd) then .live else c.state := by
  unfold SourceCtx.freed
  cases ended : (c.goneBefore e).any (·.kind == .seedEnd)
  · simp
  · rcases h with h | h <;> simp [h]

/-- Settles O39: freeing, and for the NAK the rewind; out of range the frame is stale. -/
theorem ackAndNakFrames : Obligations.AckAndNakFrames := by
  unfold Obligations.AckAndNakFrames
  refine ⟨fun s id i c a calm link found ctx state => ⟨fun out => ?staleAck, fun gone goneIs range => ?ack⟩,
    fun s id i c a calm link found ctx state => ⟨fun out => ?staleNak, fun gone goneIs range => ?nak⟩⟩
  case staleAck =>
    have taken : takeAtSource i c (.ack a) s.tookFrame = s.tookStale := by
      have stale : takeAck i c a s.tookFrame = s.tookStale := by
        unfold takeAck
        rw [if_neg (by omega), countStale_tookFrame]
      unfold takeAtSource
      rcases state with h | h <;> rw [h] <;> exact stale
    have run := exec_source_frame (b := .ack a) calm link rfl (.inl rfl) found ctx
    rw [taken, finish_tookStale (calm_still calm)] at run
    exact run
  case ack =>
    have ctx' : s.tookFrame.source? i = some c := ctx
    have count := ack_count range
    have taken : takeAtSource i c (.ack a) s.tookFrame = takeAck i c a s.tookFrame := by
      unfold takeAtSource
      rcases state with h | h <;> rw [h]
    have run := exec_source_frame (b := .ack a) calm link rfl (.inl rfl) found ctx
    have moves : ¬ (a + 1#16 - c.oldest).toNat = 0 := by omega
    rw [taken, takeAck_of_in_range ctx' range, if_neg moves] at run
    have goneIs' : c.goneBefore (a + 1#16) = gone := by rw [goneIs, ← count]; rfl
    obtain ⟨_, _, _, access, queue, _, _⟩ := still_iff.mp (calm_still calm)
    generalize hd : SourceCtx.freed { c with
        retryCount := 0
        retxTimer := if a + 1#16 = c.txPtr then none else some s.tookFrame.settings.retxTimeout } (a + 1#16) = d at run
    generalize hu : s.tookFrame.sourced i d { held := true, seed := true }
      (freedEv (s.tookFrame.entry i).stream c (a + 1#16) s.tookFrame.ev) = u at run
    have rests : u.accessRests := by rw [← hu]; exact access
    have high : u.resetLow = false := by rw [← hu]; exact calm_resetLow (s := s) calm
    have ev : u.ev = freedEv (s.tookFrame.entry i).stream c (a + 1#16) s.tookFrame.ev := by rw [← hu]; rfl
    have poised : s.poised := still_poised (calm_still calm)
    have cond : u.ev.cond = s.ev.cond := by rw [ev]; exact (freedEv_grows _ _ _ _).cond
    have seed : u.seed = s.seed := by rw [← hu]; rfl
    have busy : u.seed.phase ≠ .idle ∨ u.seed.queue = [] := by rw [seed]; exact queue
    have due := finish_offersDue high rests busy (by rw [← hu]; rfl)
    refine ⟨_, run, ?_, fun mark => ?_, fun seeding ended => ?_, ?_, ?_, ?_, ?_, ?_, ?_, fun j hj => ?_⟩
    · rw [finish_source? rests, ← hu, sourced_source?, if_pos rfl, ← hd]
      have live := freed_state (e := a + 1#16) state
      rw [goneIs'] at live
      have queue' : (c.freed (a + 1#16)).queue = c.queue.drop ((a - c.oldest).toNat + 1) := by rw [← count]; rfl
      refine congrArg some ?_
      change SourceCtx.mk (c.freed (a + 1#16)).state _ _ _ _ _ _ (c.freed (a + 1#16)).queue _ _ _ _ _ _ _ _ _ _ _ _ _ = _
      rw [live, queue']
      simp only [SourceCtx.goneBefore, count, ← goneIs]
      rfl
    · obtain ⟨done, told⟩ := freedEv_fenceDone ev (by rw [goneIs']; exact mark)
      exact ⟨finish_caused_of_poised poised rfl cond done, finish_noticed told⟩
    · obtain ⟨live, told⟩ := freedEv_streamLive ev ⟨by rw [goneIs']; exact ended, seeding⟩
      exact ⟨finish_caused_of_poised poised rfl cond live, finish_noticed told⟩
    · rw [due.1, ← hu]; rfl
    · rw [due.2, ← hu]; rfl
    · rw [finish_acc rests, ← hu]; rfl
    · rw [finish_seed_of_busy rests busy, seed]
    · rw [finish_link rests, ← hu]; rfl
    · rw [finish_sched rests, ← hu]; rfl
    · rw [finish_entry rests, ← hu, sourced_entry, if_neg hj]; rfl
  case staleNak =>
    have taken : takeAtSource i c (.nak a) s.tookFrame = s.tookStale := by
      have stale : takeNak i c a s.tookFrame = s.tookStale := by
        unfold takeNak
        rw [if_neg (by omega), countStale_tookFrame]
      unfold takeAtSource
      rcases state with h | h <;> rw [h] <;> exact stale
    have run := exec_source_frame (b := .nak a) calm link rfl (.inl rfl) found ctx
    rw [taken, finish_tookStale (calm_still calm)] at run
    exact run
  case nak =>
    have ctx' : s.tookFrame.source? i = some c := ctx
    have taken : takeAtSource i c (.nak a) s.tookFrame = takeNak i c a s.tookFrame := by
      unfold takeAtSource
      rcases state with h | h <;> rw [h]
    have run := exec_source_frame (b := .nak a) calm link rfl (.inl rfl) found ctx
    rw [taken, takeNak_of_in_range ctx' range] at run
    have goneIs' : c.goneBefore a = gone := by rw [goneIs]; rfl
    obtain ⟨_, _, _, access, queue, _, _⟩ := still_iff.mp (calm_still calm)
    generalize hd : ({ (c.freed a).rewind a with
      retxTimer := none, retryCount := if a = c.oldest then c.retryCount else 0 } : SourceCtx) = d at run
    generalize ho : (if (a - c.oldest).toNat = 0 then s.tookFrame.offers else { held := true, seed := true }) = o at run
    generalize hu : s.tookFrame.sourced i d o (freedEv (s.tookFrame.entry i).stream c a s.tookFrame.ev) = u at run
    have rests : u.accessRests := by rw [← hu]; exact access
    have high : u.resetLow = false := by rw [← hu]; exact calm_resetLow (s := s) calm
    have seed : u.seed = s.seed := by rw [← hu]; rfl
    have busy : u.seed.phase ≠ .idle ∨ u.seed.queue = [] := by rw [seed]; exact queue
    refine ⟨_, run, ?_, fun moved => ?_, ?_, ?_, ?_, ?_, fun j hj => ?_⟩
    · rw [finish_source? rests, ← hu, sourced_source?, if_pos rfl, ← hd]
      have live := freed_state (e := a) state
      rw [goneIs'] at live
      refine congrArg some ?_
      change SourceCtx.mk (c.freed a).state _ _ _ _ _ _ ((c.queue.drop (a - c.oldest).toNat).map fun r =>
        if seqLe a r.seq then r.toReady else r) _ _ _ _ _ _ _ _ _ _ _ _ _ = _
      rw [live, rewind_queue]
      simp only [← goneIs']
      rfl
    · have moves : ¬ (a - c.oldest).toNat = 0 := fun h => moved (by
        have : a - c.oldest = 0#16 := BitVec.eq_of_toNat_eq (by simpa using h)
        bv_omega)
      have due := finish_offersDue high rests busy (by rw [← hu, sourced_offers, ← ho, if_neg moves])
      exact ⟨due.1.trans (by rw [← hu]; rfl), due.2.trans (by rw [← hu]; rfl)⟩
    · rw [finish_acc rests, ← hu]; rfl
    · rw [finish_seed_of_busy rests busy, seed]
    · rw [finish_link rests, ← hu]; rfl
    · rw [finish_sched rests, ← hu]; rfl
    · rw [finish_entry rests, ← hu, sourced_entry, if_neg hj]; rfl

end Sys2Proof.Machine
end

section
/-! SUPPORT. The REOPEN_REPLY and the PROMOTED frame at a source stream (R112, R113, R149, R150). -/

namespace Sys2Proof.Machine

variable {s t u : State} {id : StreamId} {epoch : Epoch} {i : WinIdx} {c : SourceCtx}

/-! ### What a reseed leaves at the end of the event -/

/-- A reseed, whichever event it belongs to (R113). -/
theorem reseed_outcome (hs : s.poised) (hc : s.source? i = some c) :
    (finish (reseed i s)).source? i = some (c.reseeded (s.link.state == .up) s.settings.controlTimeout)
      ∧ (finish (reseed i s)).caused .streamReseed = true
      ∧ (finish (reseed i s)).noticed (s.entry i).stream = true
      ∧ (finish (reseed i s)).link = s.link
      ∧ (s.link.state = .up → (finish (reseed i s)).ctlSlot (s.entry i).stream =
          some { epoch := c.epoch + 1#8, body := .openReq (s.entry i).length .reseed })
      ∧ ∀ j, j ≠ i → (finish (reseed i s)).entry j = s.entry j := by
  have rests := reseed_accessRests hc hs.1
  have loc := reseed_sourceLocal (i := i) (s := s)
  refine ⟨?_, ?_, finish_noticed (reseed_noticed hc), ?_, fun up => ?_, fun j hj => ?_⟩
  · rw [finish_source? rests, reseed_source?_same hc]
  · exact finish_caused_of_poised hs rfl loc.ev.1 (reseed_caused hc)
  · rw [finish_link rests, reseed_link hc]
  · rw [finish_ctlSlot rests]
    unfold State.ctlSlot
    rw [reseed_sched_of_up hc up]
    exact (setCtlSlot_ctlSlot s _ _ _).trans (if_pos rfl)
  · rw [finish_entry rests, loc.others j hj]

/-! ### The CONTINUE -/

/-- The state a suspended source context returns to. -/
def Prior.sourceState : Prior → SrcState
  | .seeding => .seeding
  | .live => .live

/-- The context that has taken a CONTINUE of expected seq `e` (R112). -/
def SourceCtx.continuing (c : SourceCtx) (e : Seq) : SourceCtx :=
  { SourceCtx.freed { c with retryCount := 0, state := c.prior.sourceState } e with txPtr := e }

/-- The state that has taken a CONTINUE, before the stream joins the seed queue (R112). -/
def State.continued (s : State) (i : WinIdx) (c : SourceCtx) (e : Seq) : State :=
  s.sourced i (c.continuing e) (if (e - c.oldest).toNat = 0 then s.offers else { held := true, seed := true })
    (freedEv (s.entry i).stream { c with retryCount := 0, state := c.prior.sourceState } e s.ev)

/-- What follows a context's return to its prior state in a CONTINUE (R112). -/
def resumeAt (i : WinIdx) (e : Seq) (s : State) : State :=
  let s := (freeBefore i e s).modSource i fun c => { c with txPtr := e }
  match s.source? i with
  | some c => if c.state = .seeding ∧ c.cursor < (s.entry i).length.toNat then joinSeedQueue i s else s
  | none => s

theorem takeContinue_resumeAt (i : WinIdx) (e : Seq) (s : State) : takeContinue i e s =
    resumeAt i e (s.modSource i fun c => { c with retryCount := 0, state := c.prior.sourceState }) := rfl

theorem takeContinue_eq (h : s.source? i = some c) (e : Seq) : takeContinue i e s =
    if (c.continuing e).state = .seeding ∧ (c.continuing e).cursor < (s.entry i).length.toNat then
      joinSeedQueue i (s.continued i c e)
    else s.continued i c e := by
  have returned : s.modSource i (fun c => { c with retryCount := 0, state := c.prior.sourceState }) =
      s.sourced i { c with retryCount := 0, state := c.prior.sourceState } s.offers s.ev := modSource_sourced _ h
  generalize hd : ({ c with retryCount := 0, state := c.prior.sourceState } : SourceCtx) = d at returned
  have freed : freeBefore i e (s.sourced i d s.offers s.ev) =
      s.sourced i (d.freed e) (if (e - c.oldest).toNat = 0 then s.offers else { held := true, seed := true })
        (freedEv (s.entry i).stream d e s.ev) := by
    rw [freeBefore_sourced (c := d) (by simp), sourced_sourced]
    simp only [sourced_offers, sourced_ev, sourced_entry, if_true, ← hd]
  have pointed : State.modSource (freeBefore i e (s.sourced i d s.offers s.ev)) i (fun c => { c with txPtr := e }) =
      s.continued i c e := by
    rw [freed, sourced_modSource, ← hd]
    rfl
  have ctx : (s.continued i c e).source? i = some (c.continuing e) := by simp [State.continued]
  have length : ((s.continued i c e).entry i).length = (s.entry i).length := by simp [State.continued]
  rw [takeContinue_resumeAt, returned, resumeAt]
  rw [pointed, ctx]
  dsimp only
  rw [length]

/-- The state of a stream that has taken a CONTINUE (R53, R110, R112). -/
theorem continuing_state (e : Seq) : (c.continuing e).state =
    if c.prior = .live ∨ (c.goneBefore e).any (·.kind == .seedEnd) = true then .live else .seeding := by
  change (if (c.goneBefore e).any (·.kind == .seedEnd) = true ∧ c.prior.sourceState = .seeding then SrcState.live
    else c.prior.sourceState) = _
  cases c.prior <;> cases (c.goneBefore e).any (·.kind == .seedEnd) <;> simp [Prior.sourceState]

/-- Settles O33: in range the CONTINUE frees and resumes; everything else is a reseed. -/
theorem reopenReplyFrame : Obligations.ReopenReplyFrame := by
  unfold Obligations.ReopenReplyFrame
  intro s id i c v e calm link found ctx state
  have ctx' : s.tookFrame.source? i = some c := ctx
  have still := tookFrame_still (calm_still calm)
  generalize hd : ({ c with ctlTimer := none, triesLeft := 0 } : SourceCtx) = d
  have stopped : s.tookFrame.modSource i (fun c => { c with ctlTimer := none, triesLeft := 0 }) =
      s.tookFrame.sourced i d s.offers s.ev := by
    rw [← hd]
    exact modSource_sourced _ ctx'
  have taken : takeAtSource i c (.reopenReply v e) s.tookFrame =
      if v = .continues ∧ (e - c.oldest).toNat ≤ (c.nextSeq - c.oldest).toNat then
        takeContinue i e (s.tookFrame.sourced i d s.offers s.ev)
      else reseed i (s.tookFrame.sourced i d s.offers s.ev) := by
    unfold takeAtSource
    rw [state]
    dsimp only
    unfold takeReopenReply
    rw [stopped]
  have run := exec_source_frame (b := .reopenReply v e) calm link rfl (.inl rfl) found ctx
  rw [taken] at run
  have ctxd : (s.tookFrame.sourced i d s.offers s.ev).source? i = some d := by simp
  have poised : (s.tookFrame.sourced i d s.offers s.ev).poised := (still_poised still).of_eq rfl rfl rfl
  have entry : (s.tookFrame.sourced i d s.offers s.ev).entry i = { s.entry i with role := .source d } :=
    (sourced_entry d s.offers s.ev i).trans (if_pos rfl)
  have other : ∀ j, j ≠ i → (s.tookFrame.sourced i d s.offers s.ev).entry j = s.entry j := fun j hj =>
    (sourced_entry d s.offers s.ev j).trans (if_neg hj)
  refine ⟨fun verdict range gone goneIs => ?continues, fun out => ?reseeds⟩
  case continues =>
    rw [if_pos ⟨verdict, range⟩, takeContinue_eq ctxd, entry] at run
    have oldest : d.oldest = c.oldest := by rw [← hd]
    have cursor : (d.continuing e).cursor = c.cursor := by rw [← hd]; rfl
    have goneIs' : d.goneBefore e = gone := by rw [goneIs, ← hd]; rfl
    have dstate := continuing_state (c := d) e
    rw [goneIs', show d.prior = c.prior from by rw [← hd]] at dstate
    obtain ⟨_, _, _, access, queue, _, _⟩ := still_iff.mp (calm_still calm)
    generalize hu : (s.tookFrame.sourced i d s.offers s.ev).continued i d e = u at run
    have rests : ∀ x : SeedEngine, State.accessRests { u with seed := x } := fun x => by
      rw [← hu]; exact access
    have high : u.resetLow = false := by rw [← hu]; exact calm_resetLow (s := s) calm
    have ev : u.ev = freedEv (s.entry i).stream { d with retryCount := 0, state := d.prior.sourceState } e s.ev := by
      rw [← hu]
      change freedEv ((s.tookFrame.sourced i d s.offers s.ev).entry i).stream _ e s.ev = _
      rw [entry]
    have cond : u.ev.cond = s.ev.cond := by rw [ev]; exact (freedEv_grows _ _ _ _).cond
    have seed : u.seed = s.seed := by rw [← hu]; rfl
    have source : u.source? i = some (d.continuing e) := by rw [← hu]; simp [State.continued]
    have others : ∀ j, j ≠ i → u.entry j = s.entry j := fun j hj => by
      rw [← hu]
      exact ((sourced_entry _ _ _ j).trans (if_neg hj)).trans (other j hj)
    have joined : ∃ x : SeedEngine, exec (.reopenReplyFrame id c.epoch v e) s = .next (finish { u with seed := x })
        ∧ ((d.continuing e).state = .seeding ∧ c.cursor < (s.entry i).length.toNat →
            x = { s.seed with queue := s.seed.queue ++ [i] })
        ∧ (¬ ((d.continuing e).state = .seeding ∧ c.cursor < (s.entry i).length.toNat) → x = s.seed) := by
      by_cases walks : (d.continuing e).state = .seeding ∧ c.cursor < (s.entry i).length.toNat
      · refine ⟨{ s.seed with queue := s.seed.queue ++ [i] }, ?_, fun _ => rfl, fun h => absurd walks h⟩
        rw [if_pos (by rw [cursor]; exact walks)] at run
        refine run.trans ?_
        rw [joinSeedQueue, seed]
      · refine ⟨s.seed, ?_, fun h => absurd h walks, fun _ => rfl⟩
        rw [if_neg (by rw [cursor]; exact walks)] at run
        refine run.trans ?_
        rw [← seed]
    obtain ⟨x, run', joins, stays⟩ := joined
    refine ⟨_, run', ?_, fun mark => ?_, fun prior ended => ?_, fun prior ended short => ?_, fun done => ?_, fun j hj => ?_⟩
    · rw [finish_source? (rests x)]
      refine source.trans (congrArg some ?_)
      change SourceCtx.mk (d.continuing e).state _ _ _ _ _ _ _ _ _ _ _ _ _ _ _ _ _ _ _ _ = _
      rw [dstate, ← goneIs', ← hd]
      rfl
    · obtain ⟨done, told⟩ := freedEv_fenceDone (t := { u with seed := x }) ev (by
        change (freedMark (d.goneBefore e)).isSome = true
        rw [goneIs']; exact mark)
      exact ⟨finish_caused_of_poised (still_poised (calm_still calm)) rfl cond done, finish_noticed told⟩
    · obtain ⟨live, told⟩ := freedEv_streamLive (t := { u with seed := x }) ev ⟨by
        change (d.goneBefore e).any _ = true
        rw [goneIs']; exact ended, by
        change d.prior.sourceState = .seeding
        rw [← hd]
        change c.prior.sourceState = .seeding
        rw [prior]
        rfl⟩
      exact ⟨finish_caused_of_poised (still_poised (calm_still calm)) rfl cond live, finish_noticed told⟩
    · have walks : (d.continuing e).state = .seeding ∧ c.cursor < (s.entry i).length.toNat :=
        ⟨by rw [dstate]; simp [prior, ended], short⟩
      have x_eq := joins walks
      refine ⟨fun busy => ?_, fun idle => ?_⟩
      · rw [finish_seed_of_busy (rests x) (.inl (by rw [x_eq]; exact busy)), x_eq]
      · rw [finish_seed (s := { u with seed := x }) high (rests x)]
        have empty : s.seed.queue = [] := queue.resolve_left (fun h => h idle)
        have some : (State.source? { u with seed := x } i).isSome = true := by
          change (u.source? i).isSome = true
          rw [source]; rfl
        exact (seedTake_head (s := { u with seed := x }) (n := i) (rest := []) (by rw [x_eq]; exact idle)
          (by rw [x_eq, empty]; rfl) some).1
    · have rest : ¬ ((d.continuing e).state = .seeding ∧ c.cursor < (s.entry i).length.toNat) := by
        rintro ⟨seeding, short⟩
        rw [dstate] at seeding
        rcases done with live | ended | long
        · simp [live] at seeding
        · simp [ended] at seeding
        · omega
      have x_eq := stays rest
      rw [finish_seed_of_busy (rests x) (by rw [x_eq]; exact queue), x_eq]
    · rw [finish_entry (rests x)]
      exact others j hj
  case reseeds =>
    have out' : ¬ (v = .continues ∧ (e - c.oldest).toNat ≤ (c.nextSeq - c.oldest).toNat) := by
      rintro ⟨continues, range⟩
      rcases out with h | h
      · rw [h] at continues; cases continues
      · omega
    rw [if_neg out'] at run
    obtain ⟨source, reseeded, noticed, _, slot, others⟩ := reseed_outcome poised ctxd
    have up : ((s.tookFrame.sourced i d s.offers s.ev).link.state == .up) = true := by
      change (s.link.state == .up) = true
      simp [link]
    rw [up] at source
    rw [entry] at noticed slot
    have epoch' : d.epoch = c.epoch := by rw [← hd]
    rw [epoch'] at slot
    refine ⟨_, _, run, source, rfl, ?_, rfl, rfl, rfl, rfl, rfl, ?_, reseeded, noticed, slot link, fun j hj => ?_⟩
    · rw [← hd]; rfl
    · rw [← hd]; rfl
    · rw [others j hj, other j hj]

/-! ### PROMOTED -/

/-- The context of an open source that has taken a PROMOTED through `l`, before its fault (R149). -/
def SourceCtx.promotedThrough (c : SourceCtx) (l : Seq) : SourceCtx :=
  if (l + 1#16 - c.oldest).toNat ≤ (c.nextSeq - c.oldest).toNat then
    { c.freed (l + 1#16) with
      txPtr := if (c.txPtr - c.oldest).toNat < (l + 1#16 - c.oldest).toNat then l + 1#16 else c.txPtr }
  else c

/-- A PROMOTED at an open source comes to a fault and the yield (R149, R150). -/
theorem takePromoted_eq (h : s.source? i = some c) (l : Seq) : ∃ o e, s.ev.Grows e
    ∧ takePromoted i c l s = yieldIfOn i (faultStream i .peerPromoted (s.sourced i (c.promotedThrough l) o e)) := by
  unfold takePromoted SourceCtx.promotedThrough
  dsimp only
  by_cases range : (l + 1#16 - c.oldest).toNat ≤ (c.nextSeq - c.oldest).toNat
  · rw [if_pos range, if_pos range, freeBefore_sourced h, sourced_modSource]
    exact ⟨_, _, freedEv_grows _ _ _ _, rfl⟩
  · rw [if_neg range, if_neg range]
    exact ⟨s.offers, s.ev, EventUnit.Grows.refl _, by rw [sourced_self h]⟩

/-- A MARK among the first records of a queue is its first MARK. -/
theorem freedMark_take {q : List Record} {n : Nat} {tag : Tag} (h : freedMark q = some tag) :
    freedMark (q.take n) = some tag ∨ freedMark (q.take n) = none := by
  cases hn : freedMark (q.take n) with
  | none => exact .inr rfl
  | some x =>
      refine .inl ?_
      have whole : freedMark (q.take n ++ q.drop n) = some x := by
        unfold freedMark at hn ⊢
        rw [List.findSome?_append, hn]
        rfl
      rw [List.take_append_drop, h] at whole
      exact whole.symm

/-- How an outstanding fence ends when the promoted copy is told of (R58, R149). -/
theorem promotedThrough_lastFence {l : Seq} {tag : Tag} (hf : c.fence = some tag) (hm : freedMark c.queue = some tag)
    (hr : (l + 1#16 - c.oldest).toNat ≤ (c.nextSeq - c.oldest).toNat) :
    (c.promotedThrough l).discarded.lastFence = some
      (if freedMark (c.queue.take (l + 1#16 - c.oldest).toNat) = some tag then .completed else .abandoned, tag) := by
  have gone : c.goneBefore (l + 1#16) = c.queue.take (l + 1#16 - c.oldest).toNat := rfl
  unfold SourceCtx.promotedThrough
  rw [if_pos hr]
  unfold SourceCtx.freed SourceCtx.discarded
  rw [gone]
  rcases freedMark_take (n := (l + 1#16 - c.oldest).toNat) hm with h | h
  · rw [h]; simp
  · rw [h]; simp [hf]

/-- What the yield leaves of a window that has faulted or closed (R149, R150). -/
theorem yield_outcome {d : SourceCtx} {v : EventUnit} (h : s.accessRests) (ha : u.acc = s.acc.discard i)
    (hb : u.bus = s.bus) (he : u.entry i = { s.entry i with role := .source d }) (hv : u.ev = v)
    (ho : ∀ j, j ≠ i → u.entry j = s.entry j) :
    v.Grows (yieldIfOn i u).ev ∧ (yieldIfOn i u).accessRests
      ∧ (∀ j, j ≠ i → (yieldIfOn i u).entry j = s.entry j)
      ∧ ((s.entry i).yieldOn = true → (yieldIfOn i u).entry i = { s.entry i with role := .sink newSink }
          ∧ (yieldIfOn i u).noticed (s.entry i).stream = true)
      ∧ ((s.entry i).yieldOn = false → yieldIfOn i u = u) := by
  have on : (u.entry i).yieldOn = (s.entry i).yieldOn := by rw [he]
  have rests : u.accessRests := accessRests_of_discard h ha hb
  unfold yieldIfOn
  rw [on]
  cases yields : (s.entry i).yieldOn with
  | false =>
      rw [if_neg (by simp)]
      exact ⟨EventUnit.Grows.of_eq hv, rests, ho, by simp, fun _ => rfl⟩
  | true =>
      rw [if_pos rfl]
      have ev : (yieldWindow i u).ev = v.addNotice (s.entry i).stream := by
        unfold yieldWindow
        rw [noticeWin_ev, setRole_ev, hv, setRole_entry, if_pos rfl, he]
      refine ⟨by rw [ev]; exact v.addNotice_grows _, rests, fun j hj => ?_, fun _ => ⟨?_, ?_⟩, by simp⟩
      · exact (setRole_entry_ne u i _ hj).trans (ho j hj)
      · unfold yieldWindow
        rw [noticeWin_entry, setRole_entry, if_pos rfl, he]
      · exact noticed_of_addNotice (EventUnit.Grows.of_eq ev)

/-- Settles O35: the fault or the close, and the yield where it is on. -/
theorem promotedFrame : Obligations.PromotedFrame := by
  unfold Obligations.PromotedFrame
  intro s id i c l n calm link found ctx count state
  have ctx' : s.tookFrame.source? i = some c := ctx
  have poised := still_poised (tookFrame_still (calm_still calm))
  have format : (Frame.stream id c.epoch (.promoted l n)).formatOk = true := decide_eq_true count
  have run := exec_source_frame (b := .promoted l n) calm link format (.inl rfl) found ctx
  by_cases closing : c.state = .closing
  · have taken : takeAtSource i c (.promoted l n) s.tookFrame = yieldIfOn i (enterClosed i s.tookFrame) := by
      unfold takeAtSource
      rw [closing]
    rw [taken, enterClosed_eq ctx'] at run
    obtain ⟨_, rests, others, on, off⟩ := yield_outcome (s := s.tookFrame) (i := i) (d := c.closedNow)
      (u := s.tookFrame.afterDiscard i c.closedNow (discardEv (s.tookFrame.entry i).stream c s.tookFrame.ev))
      poised.1 rfl rfl (by simp) rfl (fun j hj => by simp [hj])
    refine ⟨_, run, fun j hj => ?_, fun h => absurd closing h, fun yields => ?_, fun _ h => absurd closing h,
      fun yields _ => ?_⟩
    · rw [finish_entry rests]
      exact others j hj
    · obtain ⟨entry, told⟩ := on yields
      exact ⟨(finish_entry rests i).trans entry, finish_noticed told⟩
    · have same := off yields
      refine ⟨c.closedNow, ?_, rfl, rfl, rfl⟩
      rw [finish_source? rests, same]
      simp
  · obtain ⟨o, e, grows, eq⟩ := takePromoted_eq ctx' l
    have taken : takeAtSource i c (.promoted l n) s.tookFrame = takePromoted i c l s.tookFrame := by
      unfold takeAtSource
      rcases state with h | h | h | h
      · rw [h]
      · rw [h]
      · rw [h]
      · exact absurd h closing
    generalize hd : c.promotedThrough l = d at eq
    rw [taken, eq, faultStream_eq (c := d) (by simp)] at run
    generalize hv : ((discardEv ((s.tookFrame.sourced i d o e).entry i).stream d
      (s.tookFrame.sourced i d o e).ev).addNotice ((s.tookFrame.sourced i d o e).entry i).stream).raise .streamFault = v
      at run
    obtain ⟨growsOn, rests, others, on, off⟩ := yield_outcome (s := s.tookFrame) (i := i) (d := d.faulted .peerPromoted) (v := v)
      (u := (s.tookFrame.sourced i d o e).afterDiscard i (d.faulted .peerPromoted) v)
      poised.1 rfl rfl (by simp) rfl (fun j hj => by simp [hj])
    have stream : ((s.tookFrame.sourced i d o e).entry i).stream = (s.entry i).stream := by
      simp
      rfl
    rw [stream] at hv
    have fault : v.pending &&& Cause.streamFault.bit = Cause.streamFault.bit := by rw [← hv]; exact raise_pending _ _
    have told : v.notice &&& (1#16 <<< (s.entry i).stream.toNat) = 1#16 <<< (s.entry i).stream.toNat :=
      (noticed_iff (s := { s with ev := v })).mp
        (noticed_of_addNotice (t := { s with ev := v }) (by dsimp only; rw [← hv]; exact EventUnit.raise_grows _ _))
    have cond : v.cond = s.ev.cond := by
      rw [← hv]
      exact (discardEv_grows _ _ _).cond.trans grows.cond
    refine ⟨_, run, fun j hj => ?_, fun _ => ⟨?_, ?_⟩, fun yields => ?_, fun yields _ => ?_, fun _ h => absurd h closing⟩
    · rw [finish_entry rests]
      exact others j hj
    · refine finish_caused_of_poised poised rfl (growsOn.cond.trans cond) ?_
      exact caused_iff.mpr (mask_grows growsOn.raised fault)
    · exact finish_noticed (noticed_iff.mpr (mask_grows growsOn.noticed told))
    · obtain ⟨entry, told⟩ := on yields
      exact ⟨(finish_entry rests i).trans entry, finish_noticed told⟩
    · have same := off yields
      refine ⟨d.faulted .peerPromoted, ?_, rfl, rfl, rfl, rfl, rfl, fun tag fence mark range => ?_⟩
      · rw [finish_source? rests, same]
        simp
      · rw [← hd]
        exact promotedThrough_lastFence fence mark range

end Sys2Proof.Machine
end

section
/-! SUPPORT. A sink context with the slots, the counters and the event unit as one replacement; what its head is; and the
RECORDs a sink turns away (R126, R127, R129, R148). -/

namespace Sys2Proof.Machine

variable {s t u : State} {id : StreamId} {epoch : Epoch} {i : WinIdx} {c d : SinkCtx}

/-! ### Heads -/

/-- The head is read off the state, the window and expected seq alone (R130). -/
theorem groupFrom_congr (hh : d.held = c.held) (members : List RecBody) (next : Seq) (n : Nat) :
    d.groupFrom members next n = c.groupFrom members next n := by
  induction n generalizing members next with
  | zero => rfl
  | succ n ih => simp only [SinkCtx.groupFrom, SinkCtx.heldAt, hh, ih]

theorem head_congr (hs : d.state = c.state) (hh : d.held = c.held) (he : d.expected = c.expected) : d.head = c.head := by
  simp only [SinkCtx.head, SinkCtx.heldAt, hs, hh, he, groupFrom_congr hh]

theorem memoryHead_congr (hs : d.state = c.state) (hh : d.held = c.held) (he : d.expected = c.expected) :
    d.memoryHead = c.memoryHead := by
  simp only [SinkCtx.memoryHead, head_congr hs hh he]

/-- Nothing at expected seq, no head. -/
theorem head_none_of_gap (h : c.heldAt c.expected = none) : c.head = .none := by
  simp only [SinkCtx.head, h, ite_self]

theorem heldAt_of_empty (h : c.held = []) (q : Seq) : c.heldAt q = none := by
  simp [SinkCtx.heldAt, h]

theorem memoryHead_of_head (h : c.head = .none ∨ c.head = .unusable) : c.memoryHead = none := by
  rcases h with h | h <;> simp only [SinkCtx.memoryHead, h]

theorem memoryHead_of_empty (h : c.held = []) : c.memoryHead = none :=
  memoryHead_of_head (.inl (head_none_of_gap (heldAt_of_empty h _)))

/-! ### A sink context with the link, the scheduler and the event unit -/

/-- The state with the sink context of window `i`, the link, the scheduler and the event unit replaced. -/
def State.sinked (s : State) (i : WinIdx) (d : SinkCtx) (l : Link) (x : Sched) (e : EventUnit) : State :=
  { s.setRole i (.sink d) with link := l, sched := x, ev := e }

/-- The scheduler with an acknowledgement flag set. -/
def Sched.withAck (x : Sched) (id : StreamId) (f : AckFlag) : Sched :=
  { x with ack := x.ack.set (slotIdx id) (some f) }

section Sinked

variable (d : SinkCtx) (l : Link) (x : Sched) (e : EventUnit)

@[simp] theorem sinked_sink? (j : WinIdx) : (s.sinked i d l x e).sink? j = if j = i then some d else s.sink? j :=
  setRole_sink? s i j (.sink d)

@[simp] theorem sinked_entry (j : WinIdx) : (s.sinked i d l x e).entry j =
    if j = i then { s.entry i with role := .sink d } else s.entry j :=
  setRole_entry s i j (.sink d)

theorem sinked_streamOf : (s.sinked i d l x e).streamOf i = (s.entry i).stream := by simp [State.streamOf]

theorem sinked_modSink (f : SinkCtx → SinkCtx) : (s.sinked i d l x e).modSink i f = s.sinked i (f d) l x e := by
  rw [modSink_some f (c := d) (by simp)]
  exact congrArg (fun t : State => { t with link := l, sched := x, ev := e })
    (setRole_setRole s i (.sink d) (.sink (f d)))

theorem sinked_notice (y : Cause) : raise y (noticeWin i (s.sinked i d l x e)) =
    s.sinked i d l x ((e.addNotice (s.entry i).stream).raise y) := by
  simp only [noticeWin, sinked_streamOf]
  rfl

theorem sinked_flag (hl : l.state = .up) (id : StreamId) (f : AckFlag) :
    flag id f (s.sinked i d l x e) = s.sinked i d l (x.withAck id f) e :=
  flag_of_up (s := s.sinked i d l x e) hl id f

theorem modSink_sinked (f : SinkCtx → SinkCtx) (h : s.sink? i = some c) :
    s.modSink i f = s.sinked i (f c) s.link s.sched s.ev := modSink_some f h

/-- NAK(e) is flagged once (R127). -/
theorem nakOnce_sinked (hl : l.state = .up) : nakOnce i (s.sinked i d l x e) =
    if d.nakOutstanding then s.sinked i d l x e
    else s.sinked i { d with nakOutstanding := true } l
      (x.withAck (s.entry i).stream { isNak := true, seq := d.expected, epoch := d.epoch }) e := by
  have ctx : (s.sinked i d l x e).sink? i = some d := by simp
  simp only [nakOnce, ctx, sinked_modSink, flagNak, sinked_flag _ _ _ _ hl, sinked_streamOf]

/-- ACK(e−1) is flagged where the flag is empty (R136). -/
theorem flagAck_sinked (hl : l.state = .up) {id : StreamId} (hf : (s.sinked i d l x e).ackFlag id = none)
    (k : SinkCtx) : flagAck id k (s.sinked i d l x e) =
      s.sinked i d l (x.withAck id { isNak := false, seq := k.expected - 1#16, epoch := k.epoch }) e := by
  simp only [flagAck, hf, sinked_flag _ _ _ _ hl]

end Sinked

/-! ### The end of an event at a sink -/

/-- Replacing a sink context changes the heads of its own stream alone. -/
theorem setSink_lookup (h : s.sink? i = some c) (d : SinkCtx) (id : StreamId) :
    (s.setRole i (.sink d)).lookup id = s.lookup id := by
  have role : (s.entry i).role = .sink c := sink?_eq_some.mp h
  exact (setRole_streamLocal (i := i) (r := .sink d) (by simp [Entry.enabled, role])).lookup id

theorem setSink_applyHead (h : s.sink? i = some c) (hm : d.memoryHead = c.memoryHead) (he : d.epoch = c.epoch)
    (id : StreamId) : (s.setRole i (.sink d)).applyHead id = s.applyHead id := by
  unfold State.applyHead
  rw [setSink_lookup h]
  cases hl : s.lookup id with
  | none => rfl
  | some j =>
      dsimp only
      rw [setRole_sink?]
      by_cases hj : j = i
      · rw [if_pos hj, hj, h]
        dsimp only
        rw [hm, he]
      · rw [if_neg hj]

theorem setSink_source? (h : s.sink? i = some c) (d : SinkCtx) (j : WinIdx) :
    (s.setRole i (.sink d)).source? j = s.source? j := by
  rw [setRole_source?]
  split
  · rename_i hj
    rw [hj, source?_of_sink? h]
  · rfl

section SinkedFinish

variable {l : Link} {x : Sched} {e : EventUnit}

theorem sinked_accessRests (h : s.accessRests) : (s.sinked i d l x e).accessRests := h

/-- Where the memory head stands, the apply engine chooses nothing new. -/
theorem sinked_applyRests (h : s.still = true) (hc : s.sink? i = some c) (hm : d.memoryHead = c.memoryHead)
    (he : d.epoch = c.epoch) : (s.sinked i d l x e).applyRests = true := by
  obtain ⟨_, _, _, _, _, apply, _⟩ := still_iff.mp h
  rw [← apply]
  exact applyRests_congr (t := s.sinked i d l x e) rfl (setSink_applyHead hc hm he)

theorem finish_sinked_apply (h : s.still = true) (hc : s.sink? i = some c) (hm : d.memoryHead = c.memoryHead)
    (he : d.epoch = c.epoch) : (finish (s.sinked i d l x e)).apply = s.apply :=
  finish_apply_of_rests (sinked_accessRests (still_accessRests h)) (sinked_applyRests h hc hm he)

/-- An event that changes the slots and counters and a sink context with its head untouched ends so. -/
theorem finish_sinked_same (h : s.still = true) (hc : s.sink? i = some c) (hm : d.memoryHead = c.memoryHead)
    (he : d.epoch = c.epoch) (hl : l.state = s.link.state) : finish (s.sinked i d l x s.ev) = s.sinked i d l x s.ev := by
  rw [finish_of_still_heads (t := s.sinked i d l x s.ev) h rfl (sinked_accessRests (still_accessRests h))
    (setSink_applyHead hc hm he) rfl rfl rfl]
  apply judgeIfOver_of_eq
  obtain ⟨_, _, _, _, _, _, seen⟩ := still_iff.mp h
  have free : (s.sinked i d l x s.ev).freeCount = s.freeCount :=
    freeCount_congr (s := s) (fun j => recordCount_congr (setSink_source? hc d j)) rfl rfl
  exact seen.trans (conditions_congr (s := s) (t := s.sinked i d l x s.ev) rfl rfl hl free rfl).symm

end SinkedFinish

/-! ### RECORDs turned away -/

/-- A RECORD of its epoch at an open sink comes to the admission (R122, R126). -/
theorem recordAtCtx_of_open (hc : s.sink? i = some c) (hs : c.state = .seeding ∨ c.state = .live) (r : RecBody) :
    recordAtCtx i c c.epoch r s = admission i c r s := by
  have active : c.state ≠ .suspended := by rcases hs with h | h <;> simp [h]
  simp only [recordAtCtx, ne_eq, not_true_eq_false, if_false, if_neg active, hc]

theorem ne_closed_of_open (hs : c.state = .seeding ∨ c.state = .live) : c.state ≠ .closed := by
  rcases hs with h | h <;> simp [h]

/-- A RECORD of its epoch at an open sink (R122, R126). -/
theorem exec_record_open (h : s.calm = true) (hl : s.link.state = .up) {r : RecBody} (hf : r.formatOk = true)
    (hw : s.lookup id = some i) (hc : s.sink? i = some c) (hs : c.state = .seeding ∨ c.state = .live) :
    exec (.recordFrame id c.epoch r) s = .next (finish (admission i c r s.tookFrame)) := by
  have run := exec_stream_in_up (id := id) (epoch := c.epoch) (b := .record r) h hl hf
  refine run.trans (congrArg (fun u => Host.Outcome.next (finish u)) ?_)
  change recordAtSink id c.epoch r s.tookFrame = _
  rw [recordAtSink_of_sink (s := s.tookFrame) hw hc (ne_closed_of_open hs), recordAtCtx_of_open (s := s.tookFrame) hc hs]

/-- A number that precedes expected seq lies beyond the window (R126). -/
theorem far_of_precedes {q e : Seq} (h : seqPrecedes q e = true) : 4 ≤ (q - e).toNat := by
  simp only [seqPrecedes, Bool.and_eq_true, decide_eq_true_eq] at h
  bv_omega

/-- A RECORD for no open sink is answered (R129). -/
theorem recordAtSink_of_no_sink (hp : s.promotedFor id epoch = none)
    (hn : ∀ i c, s.lookup id = some i → s.sink? i = some c → c.state = .closed) (r : RecBody) :
    recordAtSink id epoch r s = place id epoch (.close .notOpen) s := by
  cases hl : s.lookup id with
  | none => simp only [recordAtSink, hp, hl, Option.bind_none]
  | some i =>
      cases hc : s.sink? i with
      | none => simp only [recordAtSink, hp, hl, Option.bind_some, hc, Option.map_none]
      | some c => simp only [recordAtSink, hp, hl, Option.bind_some, hc, Option.map_some, hn i c hl hc, if_true]

/-- Settles O36: each row of the admission, and the answers where no sink is open. -/
theorem recordTurnedAway : Obligations.RecordTurnedAway := by
  unfold Obligations.RecordTurnedAway
  intro s id epoch r calm link format
  have still := tookFrame_still (calm_still calm)
  refine ⟨fun i c found ctx same state => ?_, fun cases => ?closed, fun i c p found ctx promotion same => ?promoted⟩
  · subst same
    have ctx' : s.tookFrame.sink? i = some c := ctx
    have run := exec_record_open calm link format found ctx state
    have stream : (s.tookFrame.entry i).stream = id := (lookup_some found).2
    refine ⟨fun bad => ?misplaced, fun good held near => ?duplicate, fun good before empty => ?before,
      fun good far after nak => ?beyond⟩
    case misplaced =>
      have stale : admission i c r s.tookFrame = s.tookStale := by
        unfold admission
        rw [if_pos (show misplaced (s.tookFrame.entry i).length r = true from bad), countStale_tookFrame]
      rw [run, stale, finish_tookStale (calm_still calm)]
    case duplicate =>
      have counted : admission i c r s.tookFrame =
          s.tookFrame.modSink i fun c => { c with duplicates := c.duplicates + 1#32 } := by
        unfold admission
        rw [if_neg (by rw [show misplaced (s.tookFrame.entry i).length r = false from good]; simp),
          if_pos (show _ < Config.receiveWindow from near), if_pos held]
      rw [run, counted, modSink_sinked _ ctx', finish_sinked_same (d := { c with duplicates := c.duplicates + 1#32 })
        still ctx' (memoryHead_congr rfl rfl rfl) rfl rfl]
    case before =>
      have far : ¬ (r.seq - c.expected).toNat < Config.receiveWindow := by
        have := far_of_precedes before
        change ¬ (r.seq - c.expected).toNat < 4
        omega
      have acked : admission i c r s.tookFrame = s.tookFrame.sinked i { c with duplicates := c.duplicates + 1#32 }
          s.tookFrame.link
          (s.tookFrame.sched.withAck id { isNak := false, seq := c.expected - 1#16, epoch := c.epoch })
          s.tookFrame.ev := by
        unfold admission
        rw [if_neg (by rw [show misplaced (s.tookFrame.entry i).length r = false from good]; simp), if_neg far,
          if_pos before, modSink_sinked _ ctx', show s.tookFrame.streamOf i = id from stream]
        exact flagAck_sinked (s := s.tookFrame) _ s.tookFrame.link s.tookFrame.sched s.tookFrame.ev link empty c
      rw [run, acked, finish_sinked_same (d := { c with duplicates := c.duplicates + 1#32 })
        still ctx' (memoryHead_congr rfl rfl rfl) rfl rfl, modSink_sinked _ ctx']
      rfl
    case beyond =>
      have far' : ¬ (r.seq - c.expected).toNat < Config.receiveWindow := by
        change ¬ (r.seq - c.expected).toNat < 4
        omega
      have naked : admission i c r s.tookFrame = s.tookFrame.sinked i
          { c with beyond := c.beyond + 1#32, nakOutstanding := true } s.tookFrame.link
          (s.tookFrame.sched.withAck id { isNak := true, seq := c.expected, epoch := c.epoch }) s.tookFrame.ev := by
        unfold admission
        rw [if_neg (by rw [show misplaced (s.tookFrame.entry i).length r = false from good]; simp), if_neg far',
          if_neg (by rw [after]; simp), modSink_sinked _ ctx',
          nakOnce_sinked (s := s.tookFrame) _ s.tookFrame.link s.tookFrame.sched s.tookFrame.ev link, stream,
          if_neg (show ¬ c.nakOutstanding = true by simp [nak])]
      rw [run, naked, finish_sinked_same (d := { c with beyond := c.beyond + 1#32, nakOutstanding := true })
        still ctx' (memoryHead_congr rfl rfl rfl) rfl rfl, modSink_sinked _ ctx']
      rfl
  case closed =>
    refine exec_answered (b := .record r) calm link format ?_
    change recordAtSink id epoch r s.tookFrame = _
    rcases cases with unfound | ⟨i, c, found, ctx, other⟩ | ⟨i, c, found, ctx, state⟩
    · exact recordAtSink_of_no_sink (s := s.tookFrame) (promotedFor_of_no_window (s := s.tookFrame) unfound)
        (fun k _ hk _ => absurd (hk.symm.trans unfound) (by simp)) r
    · refine recordAtSink_of_no_sink (s := s.tookFrame) (promotedFor_none (s := s.tookFrame) found ctx other)
        (fun k d hk hd => ?_) r
      have same : k = i := Option.some.inj (hk.symm.trans found)
      subst same
      exact absurd (hd.symm.trans (sink?_of_source? (s := s.tookFrame) ctx)) (by simp)
    · refine recordAtSink_of_no_sink (s := s.tookFrame) (promotedFor_of_sink (s := s.tookFrame) found ctx)
        (fun k d hk hd => ?_) r
      have same : k = i := Option.some.inj (hk.symm.trans found)
      subst same
      have ctx_eq : d = c := Option.some.inj (hd.symm.trans ctx)
      rw [ctx_eq, state]
  case promoted =>
    refine exec_answered (b := .record r) calm link format ?_
    have promoted : s.tookFrame.promotedFor id epoch = some p :=
      promotedFor_of_source (s := s.tookFrame) found ctx promotion same
    change recordAtSink id epoch r s.tookFrame = _
    simp only [recordAtSink, promoted, placePromoted, same]

end Sys2Proof.Machine
end

section
/-! SUPPORT. RECORDs that a sink holds or applies at once, and what the apply engine then chooses (R96, R126, R127, R128, R130,
R131, R134, R136). -/

namespace Sys2Proof.Machine

variable {s t u : State} {id : StreamId} {epoch : Epoch} {i : WinIdx} {c d : SinkCtx} {r : RecBody}

/-! ### The rotation of identifiers -/

theorem rotation_of (last x : StreamId) : last + 1#4 + BitVec.ofNat 4 (x - last - 1#4).toNat = x := by
  rw [BitVec.ofNat_toNat, BitVec.setWidth_eq, BitVec.add_comm, BitVec.add_comm last, ← BitVec.add_assoc,
    BitVec.sub_add_cancel, BitVec.sub_add_cancel]

/-- The next identifier served is the first after the last one that is eligible (R96, R131). -/
theorem nextServed_eq_some {last : StreamId} {p : StreamId → Bool} (hp : p id = true)
    (hb : ∀ x : StreamId, (x - last - 1#4).toNat < (id - last - 1#4).toNat → p x = false) :
    nextServed last p = some id := by
  unfold nextServed
  rw [List.find?_map, Option.map_eq_some_iff]
  refine ⟨(id - last - 1#4).toNat, ?_, rotation_of last id⟩
  rw [List.find?_range_eq_some]
  refine ⟨by rw [Function.comp_apply, rotation_of]; exact hp, List.mem_range.mpr (id - last - 1#4).isLt, fun j hj => ?_⟩
  have small := (id - last - 1#4).isLt
  have turn : last + 1#4 + BitVec.ofNat 4 j - last - 1#4 = BitVec.ofNat 4 j := by
    rw [BitVec.add_comm last, BitVec.add_assoc, BitVec.add_comm last, ← BitVec.add_assoc, BitVec.add_sub_cancel,
      BitVec.add_comm, BitVec.add_sub_cancel]
  have earlier : (last + 1#4 + BitVec.ofNat 4 j - last - 1#4).toNat = j := by
    rw [turn, BitVec.toNat_ofNat, Nat.mod_eq_of_lt (by omega)]
  rw [Function.comp_apply, hb _ (by rw [earlier]; exact hj)]
  rfl

/-- None is served where none is eligible. -/
theorem nextServed_eq_none {last : StreamId} {p : StreamId → Bool} : nextServed last p = none ↔ ∀ x, p x = false := by
  unfold nextServed
  rw [List.find?_eq_none]
  refine ⟨fun h x => ?_, fun h x _ => by simp [h x]⟩
  have eligible := h x (List.mem_map.mpr ⟨(x - last - 1#4).toNat,
    List.mem_range.mpr (x - last - 1#4).isLt, rotation_of last x⟩)
  simpa using eligible

/-! ### What the apply engine chooses -/

/-- An idle apply engine at rest has found no head. -/
theorem applyHead_none (h : s.applyRests = true) (hi : s.apply.phase = .idle) (x : StreamId) : s.applyHead x = none := by
  have nothing : nextServed s.apply.last (fun x => (s.applyHead x).isSome) = none := by
    simpa [State.applyRests, hi] using h
  simpa using nextServed_eq_none.mp nothing x

/-- Of the streams of a part at rest, the one that has gained a head is chosen (R131). -/
theorem finish_sinked_chosen {l : Link} {x : Sched} {e : EventUnit} {rs : List RecBody} (h : s.still = true)
    (hw : s.lookup id = some i) (hc : s.sink? i = some c) (hm : d.memoryHead = some rs) (hi : s.apply.phase = .idle) :
    (finish (s.sinked i d l x e)).apply =
      { phase := .portWait, served := some { win := i, id := id, epoch := d.epoch, recs := rs }, last := id } := by
  obtain ⟨low, _, _, access, _, rests, _⟩ := still_iff.mp h
  have lookup : ∀ y, (s.sinked i d l x e).lookup y = s.lookup y := setSink_lookup hc d
  have own : (s.sinked i d l x e).applyHead id = some (i, d.epoch, rs) := by
    simp only [State.applyHead, lookup, hw, sinked_sink?, if_true, hm, Option.map_some]
  have other : ∀ y, y ≠ id → (s.sinked i d l x e).applyHead y = none := by
    intro y hy
    rw [← applyHead_none rests hi y]
    unfold State.applyHead
    rw [lookup]
    cases hl : s.lookup y with
    | none => rfl
    | some j =>
        have hj : j ≠ i := by
          rintro rfl
          exact hy ((lookup_some hl).2.symm.trans (lookup_some hw).2)
        dsimp only
        rw [sinked_sink?, if_neg hj]
  have chosen : nextServed s.apply.last (fun y => ((s.sinked i d l x e).applyHead y).isSome) = some id := by
    refine nextServed_eq_some (by rw [own]; rfl) fun y hy => ?_
    have hne : y ≠ id := by rintro rfl; exact absurd hy (Nat.lt_irrefl _)
    rw [other y hne]
    rfl
  rw [finish_apply (s := s.sinked i d l x e) low access]
  unfold applyChoose
  rw [if_pos (show (s.sinked i d l x e).apply.phase = .idle from hi),
    show (s.sinked i d l x e).apply.last = s.apply.last from rfl, chosen]
  dsimp only
  rw [own]

/-! ### Heads of a window with one or two records -/

section Found

variable (hs : c.state = .seeding ∨ c.state = .live) (hh : c.heldAt c.expected = some { body := r, underOp := false })
include hs hh

theorem head_marker (hk : r.kind = .mark ∨ r.kind = .seedEnd) : c.head = .marker r := by
  rcases hk with hk | hk <;> simp [SinkCtx.head, hs, hh, hk]

theorem head_whole (hk : r.kind = .write ∨ r.kind = .seed) (hp : r.pos = .whole) : c.head = .memory [r] := by
  rcases hk with hk | hk <;> simp [SinkCtx.head, hs, hh, hk, hp]

theorem head_first (hk : r.kind = .write ∨ r.kind = .seed) (hp : r.pos = .first) :
    c.head = c.groupFrom [r] (c.expected + 1#16) 3 := by
  rcases hk with hk | hk <;> simp [SinkCtx.head, hs, hh, hk, hp]

theorem head_inner (hk : r.kind = .write ∨ r.kind = .seed) (hp : r.pos = .middle ∨ r.pos = .last) :
    c.head = .unusable := by
  rcases hk with hk | hk <;> rcases hp with hp | hp <;> simp [SinkCtx.head, hs, hh, hk, hp]

end Found

theorem groupFrom_gap {members : List RecBody} {next : Seq} {n : Nat} (h : c.heldAt next = none) :
    c.groupFrom members next (n + 1) = .none := by
  simp [SinkCtx.groupFrom, h]

theorem groupFrom_last {members : List RecBody} {next : Seq} {n : Nat} {x : Held} (h : c.heldAt next = some x)
    (hp : x.body.pos = .last) (hg : groupOk (members ++ [x.body]) = true) :
    c.groupFrom members next (n + 1) = .memory (members ++ [x.body]) := by
  simp [SinkCtx.groupFrom, h, hp, hg]

theorem heldAt_single {x : Held} (h : c.held = [x]) (q : Seq) :
    c.heldAt q = if x.body.seq = q then some x else none := by
  simp only [SinkCtx.heldAt, h, List.find?]
  by_cases hq : x.body.seq = q
  · simp [hq]
  · rw [if_neg hq, beq_false_of_ne hq]

theorem heldAt_pair_second {x y : Held} {q : Seq} (h : c.held = [x, y]) (hx : x.body.seq ≠ q) (hy : y.body.seq = q) :
    c.heldAt q = some y := by
  simp [SinkCtx.heldAt, h, hx, hy]

/-! ### Admission into the window -/

theorem sinked_self (h : s.sink? i = some c) : s.sinked i c s.link s.sched s.ev = s := by
  have role : (s.entry i).role = .sink c := sink?_eq_some.mp h
  have same : s.setRole i (.sink c) = s := by
    unfold State.setRole
    rw [← role]
    exact setEntry_self s i
  unfold State.sinked
  rw [same]

/-- A RECORD takes a SUSPENDED sink back to its prior state (R128). -/
def SinkCtx.resumed (c : SinkCtx) : SinkCtx :=
  { c with state := if c.state = .suspended then c.prior.sinkState else c.state }

theorem resumed_open (h : c.state ≠ .closed) : c.resumed.state = .seeding ∨ c.resumed.state = .live := by
  unfold SinkCtx.resumed
  cases hs : c.state with
  | closed => exact absurd hs h
  | suspended => cases hp : c.prior <;> simp [Prior.sinkState]
  | seeding => simp
  | live => simp

theorem recordAtCtx_resumed (hc : s.sink? i = some c) (r : RecBody) : recordAtCtx i c c.epoch r s =
    admission i c.resumed r (s.sinked i c.resumed s.link s.sched s.ev) := by
  have resumed : (if c.state = .suspended then s.modSink i fun c => { c with state := c.prior.sinkState } else s) =
      s.sinked i c.resumed s.link s.sched s.ev := by
    unfold SinkCtx.resumed
    by_cases suspended : c.state = .suspended
    · rw [if_pos suspended, if_pos suspended, modSink_sinked _ hc]
    · rw [if_neg suspended, if_neg suspended]
      exact (sinked_self hc).symm
  have ctx : (s.sinked i c.resumed s.link s.sched s.ev).sink? i = some c.resumed := by simp
  unfold recordAtCtx
  rw [if_neg (by simp)]
  dsimp only
  rw [resumed, ctx]

/-- The window of a sink that has admitted a RECORD. -/
def SinkCtx.holding (c : SinkCtx) (r : RecBody) : SinkCtx :=
  { c with held := insertHeld c.expected { body := r, underOp := false } c.held }

/-- A RECORD of its epoch that an open or suspended sink admits comes to the NAK test and the apply test (R126, R127,
R128, R130). -/
theorem exec_record_held {l : Link} (h : s.calm = true) (hl : s.link.state = .up) (hf : r.formatOk = true)
    (hw : s.lookup id = some i) (hc : s.sink? i = some c) (hs : c.state ≠ .closed)
    (hm : misplaced (s.entry i).length r = false) (hn : (r.seq - c.expected).toNat < 4) (hh : c.heldAt r.seq = none)
    (hk : s.tookFrame.link = l) :
    ∃ u, exec (.recordFrame id c.epoch r) s = .next (finish u) ∧ SinkLocal i s.tookFrame u
      ∧ u = applyTest i 5 (if c.gapBefore r.seq then nakOnce i (s.tookFrame.sinked i (c.resumed.holding r) l s.sched s.ev)
        else s.tookFrame.sinked i (c.resumed.holding r) l s.sched s.ev) := by
  subst hk
  have run := exec_stream_in_up (id := id) (epoch := c.epoch) (b := .record r) h hl hf
  have atCtx : dispatch id c.epoch (.record r) s.tookFrame = recordAtCtx i c c.epoch r s.tookFrame :=
    recordAtSink_of_sink (s := s.tookFrame) hw hc hs r
  rw [atCtx] at run
  refine ⟨_, run, recordAtCtx_sinkLocal c c.epoch r, ?_⟩
  rw [recordAtCtx_resumed (s := s.tookFrame) hc]
  have length : ((s.tookFrame.sinked i c.resumed s.tookFrame.link s.tookFrame.sched s.tookFrame.ev).entry i).length =
      (s.entry i).length := by
    rw [sinked_entry, if_pos rfl]
    rfl
  unfold admission
  rw [length, if_neg (by simp [hm]), if_pos (show (r.seq - c.resumed.expected).toNat < Config.receiveWindow from hn),
    if_neg (show ¬ (c.resumed.heldAt r.seq).isSome = true by rw [show c.resumed.heldAt r.seq = none from hh]; simp)]
  unfold holdRecord
  dsimp only
  rw [sinked_modSink]
  rfl

theorem gapBefore_expected (c : SinkCtx) : c.gapBefore c.expected = false := by
  simp [SinkCtx.gapBefore]

theorem gapBefore_of_empty {q : Seq} (h : c.held = []) (hq : q ≠ c.expected) : c.gapBefore q = true := by
  have ahead : 0 < (q - c.expected).toNat := by bv_omega
  unfold SinkCtx.gapBefore
  rw [List.any_eq_true]
  exact ⟨0, List.mem_range.mpr ahead, by simp [heldAt_of_empty h]⟩

theorem gapBefore_next {q : Seq} (hq : q = c.expected + 1#16) (hh : (c.heldAt c.expected).isSome = true) :
    c.gapBefore q = false := by
  have one : (q - c.expected).toNat = 1 := by rw [hq]; bv_omega
  unfold SinkCtx.gapBefore
  rw [one]
  obtain ⟨x, hx⟩ := Option.isSome_iff_exists.mp hh
  simp [List.range_succ, hx]

theorem holding_of_empty (h : c.held = []) (r : RecBody) :
    c.holding r = { c with held := [{ body := r, underOp := false }] } := by
  simp [SinkCtx.holding, h, insertHeld]

/-! ### The apply test -/

theorem applyTest_unusable (h : s.sink? i = some c) (hu : c.head = .unusable) (n : Nat) :
    applyTest i (n + 1) s = discardUnusable i s := by
  simp only [applyTest, h, hu]

theorem applyTest_marker (h : s.sink? i = some c) (hu : c.head = .marker r) (n : Nat) :
    applyTest i (n + 1) s = applyTest i n (applyMarker i r s) := by
  simp only [applyTest, h, hu]

/-- An unusable record leaves the window, and NAK(e) is flagged (R130). -/
theorem discardUnusable_sinked {l : Link} {x : Sched} {e : EventUnit} (hl : l.state = .up) :
    discardUnusable i (s.sinked i d l x e) = s.sinked i
      { d with held := d.held.filter (·.body.seq ≠ d.expected), nakOutstanding := true }
      { l with counters := { l.counters with staleFrames := l.counters.staleFrames + 1#32 } }
      (x.withAck (s.entry i).stream { isNak := true, seq := d.expected, epoch := d.epoch }) e := by
  unfold discardUnusable
  rw [sinked_modSink]
  change nakOnce i (s.sinked i _ { l with
    counters := { l.counters with staleFrames := l.counters.staleFrames + 1#32 } } x e) = _
  rw [nakOnce_sinked (s := s) _ _ x e (by exact hl), if_neg (by simp)]

/-! ### RECORDs held -/

/-- Settles O37: the NAK of a gap, the request of a head, the discard of an unusable record, the completed group. -/
theorem recordHeld : Obligations.RecordHeld := by
  unfold Obligations.RecordHeld
  intro s id i c r calm link format found ctx isOpen good near
  have still := tookFrame_still (calm_still calm)
  have ctx' : s.tookFrame.sink? i = some c := ctx
  have stream : (s.tookFrame.entry i).stream = id := (lookup_some found).2
  generalize hl : s.tookFrame.link = l
  have up : l.state = .up := by rw [← hl]; exact link
  have access : ∀ d l x, (s.tookFrame.sinked i d l x s.ev).accessRests := fun d l x =>
    sinked_accessRests (still_accessRests still)
  have others : ∀ u, SinkLocal i s.tookFrame u → ∀ j, j ≠ i → (finish u).entry j = s.entry j := fun u loc j hj =>
    (finish_entry (loc.accessRests (still_accessRests still)) j).trans (loc.others j hj)
  refine ⟨fun empty st hst => ?single, fun f held state first kind pos next last offset block => ?group⟩
  case single =>
    obtain ⟨u, run, loc, hu⟩ := exec_record_held calm link format found ctx isOpen good near (heldAt_of_empty empty _) hl
    generalize hd : ({ c with state := st, held := [{ body := r, underOp := false }] } : SinkCtx) = d
    have resumed : c.resumed.holding r = d := by
      rw [holding_of_empty (c := c.resumed) empty, ← hd, hst]
      rfl
    rw [resumed] at hu
    have active : d.state = .seeding ∨ d.state = .live := by
      rw [← hd]; change st = _ ∨ st = _; rw [hst]; exact resumed_open isOpen
    have nothing : c.memoryHead = none := memoryHead_of_empty empty
    have expected : d.expected = c.expected := by rw [← hd]
    have single : ∀ q, d.heldAt q = if r.seq = q then some { body := r, underOp := false } else none := fun q =>
      heldAt_single (c := d) (x := { body := r, underOp := false }) (by rw [← hd]) q
    refine ⟨_, run, others u loc, fun gap => ?gap, fun same kind outer => ?outer, fun same kind inner => ?inner⟩
    case gap =>
      rw [gapBefore_of_empty empty gap, if_pos rfl, nakOnce_sinked (s := s.tookFrame) d l s.sched s.ev up,
        stream] at hu
      have noHead : ({ d with nakOutstanding := true } : SinkCtx).head = .none := head_none_of_gap (by
        change d.heldAt d.expected = none
        rw [single, expected, if_neg gap])
      have eq : ∃ x, u = s.tookFrame.sinked i { d with nakOutstanding := true } l x s.ev
          ∧ (c.nakOutstanding = true → x = s.sched)
          ∧ (c.nakOutstanding = false → x = s.sched.withAck id { isNak := true, seq := c.expected, epoch := c.epoch }) := by
        have still' : ∀ x, applyTest i 5 (s.tookFrame.sinked i { d with nakOutstanding := true } l x s.ev) =
            s.tookFrame.sinked i { d with nakOutstanding := true } l x s.ev := fun x =>
          applyTest_of_head (c := { d with nakOutstanding := true }) (by simp) (fun y => by simp [noHead])
            (by simp [noHead]) 5
        have flag : d.nakOutstanding = c.nakOutstanding := by rw [← hd]
        rw [flag] at hu
        cases nak : c.nakOutstanding with
        | true =>
            have same : ({ d with nakOutstanding := true } : SinkCtx) = d := by rw [← nak, ← flag]
            rw [if_pos nak, ← same, still'] at hu
            exact ⟨_, hu, fun _ => rfl, by simp⟩
        | false =>
            rw [if_neg (by simp [nak]), still'] at hu
            exact ⟨_, hu, by simp, fun _ => by rw [← hd]⟩
      obtain ⟨x, hu, kept, flagged⟩ := eq
      rw [hu]
      refine ⟨?_, finish_link (access _ _ _), ?_, fun nak => ?_, fun nak => ?_⟩
      · rw [finish_sink? (access _ _ _), sinked_sink?, if_pos rfl, ← hd]
      · exact finish_sinked_apply still ctx' (by rw [memoryHead_of_head (.inl noHead), nothing]) (by rw [← hd])
      · rw [finish_sched (access _ _ _), ← kept nak]; rfl
      · rw [finish_sched (access _ _ _)]; exact flagged nak
    case outer =>
      have here : d.heldAt d.expected = some { body := r, underOp := false } := by
        rw [single, expected, if_pos same]
      have head : (∀ y, d.head ≠ .marker y) ∧ d.head ≠ .unusable
          ∧ d.memoryHead = if r.pos = .whole then some [r] else none := by
        rcases outer with whole | first
        · have head := head_whole active here kind whole
          exact ⟨fun y => by simp [head], by simp [head], by simp [SinkCtx.memoryHead, head, whole]⟩
        · have second : d.heldAt (d.expected + 1#16) = none := by
            rw [single, expected, same, if_neg]
            bv_omega
          have head := (head_first active here kind first).trans (groupFrom_gap second)
          exact ⟨fun y => by simp [head], by simp [head], by simp [SinkCtx.memoryHead, head, first]⟩
      obtain ⟨noMarker, usable, memory⟩ := head
      rw [same, gapBefore_expected, if_neg (by simp), applyTest_of_head (c := d) (by simp) noMarker usable] at hu
      rw [hu]
      refine ⟨?_, finish_link (access _ _ _), finish_sched (access _ _ _), ?_⟩
      · rw [finish_sink? (access _ _ _), sinked_sink?, if_pos rfl, ← hd]
      · by_cases chosen : s.apply.phase = .idle ∧ r.pos = .whole
        · rw [if_pos chosen, finish_sinked_chosen (s := s.tookFrame) still found ctx' (by rw [memory, if_pos chosen.2])
            chosen.1, ← hd]
        · rw [if_neg chosen]
          by_cases idle : s.apply.phase = .idle
          · exact finish_sinked_apply still ctx' (by rw [memory, if_neg (fun h => chosen ⟨idle, h⟩), nothing])
              (by rw [← hd])
          · exact finish_apply_of_busy (access _ _ _) idle
    case inner =>
      have here : d.heldAt d.expected = some { body := r, underOp := false } := by
        rw [single, expected, if_pos same]
      have unusable := head_inner active here kind inner
      have dropped : ({ d with held := d.held.filter (·.body.seq ≠ d.expected), nakOutstanding := true } : SinkCtx)
          = { c with state := st, nakOutstanding := true } := by
        rw [← hd]
        simp [same, empty]
      rw [same, gapBefore_expected, if_neg (by simp), applyTest_unusable (c := d) (by simp) unusable,
        discardUnusable_sinked up, stream, dropped, expected] at hu
      rw [hu]
      refine ⟨?_, ?_, ?_, ?_⟩
      · rw [finish_sink? (access _ _ _), sinked_sink?, if_pos rfl]
      · rw [finish_link (access _ _ _), ← hl]; rfl
      · exact finish_sinked_apply still ctx' (by
          rw [memoryHead_of_empty (c := { c with state := st, nakOutstanding := true }) empty, nothing]) rfl
      · rw [finish_sched (access _ _ _), ← hd]; rfl
  case group =>
    have found1 : c.heldAt c.expected = some { body := f, underOp := false } := by
      rw [heldAt_single held, if_pos first]
    have fresh : c.heldAt r.seq = none := by
      rw [heldAt_single held, if_neg]
      change ¬ f.seq = r.seq
      rw [first, next]
      bv_omega
    obtain ⟨u, run, loc, hu⟩ := exec_record_held calm link format found ctx isOpen good near fresh hl
    generalize hd : ({ c with held := [{ body := f, underOp := false }, { body := r, underOp := false }] } : SinkCtx) = d
    have resumed : c.resumed.holding r = d := by
      have late : ¬ (r.seq - c.expected).toNat < (f.seq - c.expected).toNat := by rw [first]; simp
      have state' : (if c.state = .suspended then c.prior.sinkState else c.state) = c.state :=
        if_neg (by rcases state with h | h <;> simp [h])
      rw [← hd]
      unfold SinkCtx.holding SinkCtx.resumed
      rw [state', held]
      simp only [insertHeld, if_neg late]
    have nothing : c.memoryHead = none := memoryHead_of_head (.inl ((head_first state found1 kind pos).trans
      (groupFrom_gap (by rw [← next]; exact fresh))))
    have expected : d.expected = c.expected := by rw [← hd]
    have here : d.heldAt d.expected = some { body := f, underOp := false } := by
      rw [expected, ← hd]
      simp [SinkCtx.heldAt, first]
    have second : d.heldAt (d.expected + 1#16) = some { body := r, underOp := false } :=
      heldAt_pair_second (x := { body := f, underOp := false }) (by rw [← hd])
        (by change f.seq ≠ _; rw [expected, first]; bv_omega) (by rw [expected]; exact next)
    have complete : groupOk [f, r] = true := by
      have lengths : f.offset.toNat + (f.data.length + r.data.length) - 1 = r.offset.toNat + r.data.length - 1 := by omega
      simp [groupOk, contiguous, offset, oneBlock, lengths, block]
    have head : d.head = .memory [f, r] :=
      (head_first (by rw [← hd]; exact state) here kind pos).trans (groupFrom_last second last complete)
    rw [gapBefore_next next (by rw [found1]; rfl), if_neg (by simp), resumed, applyTest_of_head (c := d) (by simp)
      (fun y => by simp [head]) (by simp [head])] at hu
    refine ⟨_, run, ?_, ?_, ?_, others u loc, fun idle => ?_⟩
    · rw [hu, finish_sink? (access _ _ _), sinked_sink?, if_pos rfl, ← hd]
    · rw [hu]; exact finish_sched (access _ _ _)
    · rw [hu]; exact finish_link (access _ _ _)
    · rw [hu, finish_sinked_chosen (s := s.tookFrame) (rs := [f, r]) still found ctx'
        (by simp only [SinkCtx.memoryHead, head]) idle, ← hd]

/-! ### Markers -/

/-- The sink context that has applied the marker of its whole window (R134, R136). -/
def SinkCtx.marked (c : SinkCtx) (set : Settings) : SinkCtx :=
  SinkCtx.countAck { c with held := [], expected := c.expected + 1#16, applied := c.applied + 1#32,
                            nakOutstanding := false } 1 set

/-- Applying the one marker a window holds (R134). -/
theorem applyMarker_sinked {l : Link} {x : Sched} {e : EventUnit} (hl : l.state = .up)
    (hd : d.held = [{ body := r, underOp := false }]) (hf : (s.sinked i d l x e).ackFlag (s.entry i).stream = none) :
    applyMarker i r (s.sinked i d l x e) =
      (if r.kind = .seedEnd ∧ d.state = .seeding then
        s.sinked i { d.marked s.settings with state := .live } l
          (x.withAck (s.entry i).stream { isNak := false, seq := d.expected, epoch := d.epoch })
          ((e.addNotice (s.entry i).stream).raise .streamLive)
      else s.sinked i (d.marked s.settings) l
          (x.withAck (s.entry i).stream { isNak := false, seq := d.expected, epoch := d.epoch }) e) := by
  have applied : SinkCtx.countAck { d with
      held := d.held.filter (·.body.seq ≠ r.seq), expected := d.expected + 1#16, applied := d.applied + 1#32,
      nakOutstanding := false } 1 s.settings = d.marked s.settings := by
    rw [hd]
    simp [SinkCtx.marked]
  have back : (d.marked s.settings).expected - 1#16 = d.expected := by
    change d.expected + 1#16 - 1#16 = d.expected
    exact BitVec.add_sub_cancel _ _
  have ctx : ∀ x, (s.sinked i (d.marked s.settings) l x e).sink? i = some (d.marked s.settings) := fun x => by simp
  have acked : flagAck (s.entry i).stream (d.marked s.settings) (s.sinked i (d.marked s.settings) l x e) =
      s.sinked i (d.marked s.settings) l
        (x.withAck (s.entry i).stream { isNak := false, seq := d.expected, epoch := d.epoch }) e := by
    have noFlag : (s.sinked i (d.marked s.settings) l x e).ackFlag (s.entry i).stream = none := hf
    rw [flagAck_sinked (s := s) _ l x e hl noFlag, back]
    rfl
  unfold applyMarker
  rw [sinked_modSink, show (s.sinked i d l x e).settings = s.settings from rfl, applied]
  dsimp only
  rw [ctx, sinked_streamOf]
  dsimp only
  rw [acked, ctx]
  dsimp only
  rw [sinked_modSink, sinked_notice]
  rfl

/-- Settles O38: the marker is applied, acknowledged, and nothing stands at the head then. -/
theorem markerApplied : Obligations.MarkerApplied := by
  unfold Obligations.MarkerApplied
  intro s id i c r calm link format found ctx state empty same marker noFlag
  have still := tookFrame_still (calm_still calm)
  have ctx' : s.tookFrame.sink? i = some c := ctx
  have stream : (s.tookFrame.entry i).stream = id := (lookup_some found).2
  generalize hl : s.tookFrame.link = l
  have up : l.state = .up := by rw [← hl]; exact link
  have good : misplaced (s.entry i).length r = false := by rcases marker with h | h <;> simp [misplaced, h]
  have near : (r.seq - c.expected).toNat < 4 := by rw [same]; simp
  obtain ⟨u, run, loc, hu⟩ := exec_record_held calm link format found ctx (ne_closed_of_open state) good near
    (heldAt_of_empty empty _) hl
  generalize hd : ({ c with held := [{ body := r, underOp := false }] } : SinkCtx) = d
  have resumed : c.resumed.holding r = d := by
    have state' : (if c.state = .suspended then c.prior.sinkState else c.state) = c.state :=
      if_neg (by rcases state with h | h <;> simp [h])
    rw [holding_of_empty (c := c.resumed) empty, ← hd]
    unfold SinkCtx.resumed
    rw [state']
  have held : d.held = [{ body := r, underOp := false }] := by rw [← hd]
  have here : d.heldAt d.expected = some { body := r, underOp := false } := by
    rw [heldAt_single held, if_pos (by rw [← hd]; exact same)]
  have head := head_marker (by rw [← hd]; exact state) here marker
  rw [resumed, same, gapBefore_expected, if_neg (by simp), applyTest_marker (c := d) (by simp) head,
    applyMarker_sinked up held (by rw [stream]; exact noFlag), stream] at hu
  have rests := loc.accessRests (still_accessRests still)
  have empty' : (d.marked s.settings).head = .none := head_none_of_gap (heldAt_of_empty rfl _)
  have emptyLive : ({ d.marked s.settings with state := .live } : SinkCtx).head = .none :=
    head_none_of_gap (heldAt_of_empty rfl _)
  generalize hx : s.sched.withAck id { isNak := false, seq := d.expected, epoch := d.epoch } = x at hu
  have sched : x = (setAckFlag id (some { isNak := false, seq := c.expected, epoch := c.epoch }) s).sched := by
    rw [← hx, ← hd]
    rfl
  have others : ∀ j, j ≠ i → (finish u).entry j = s.entry j := fun j hj =>
    (finish_entry rests j).trans (loc.others j hj)
  by_cases ends : r.kind = .seedEnd ∧ d.state = .seeding
  · rw [if_pos ends, show s.tookFrame.settings = s.settings from rfl,
      applyTest_of_head (c := { d.marked s.settings with state := .live }) (by simp) (fun y => by simp [emptyLive])
        (by simp [emptyLive])] at hu
    have ev : u.ev = (s.ev.addNotice id).raise .streamLive := by rw [hu]; rfl
    refine ⟨_, run, ?_, ?_, fun _ _ => ⟨?_, ?_⟩, ?_, others⟩
    · rw [finish_sink? rests, hu, sinked_sink?, if_pos rfl, if_pos ends.1, ← hd]
      simp [SinkCtx.marked, SinkCtx.countAck, empty]
    · rw [finish_sched rests, hu]; exact sched
    · exact finish_caused_of_poised (still_poised still) rfl loc.ev.1 (caused_of_raise ev)
    · have named : (s.entry i).stream = id := stream
      rw [named]
      exact finish_noticed (noticed_of_addNotice (by rw [ev]; exact EventUnit.raise_grows _ _))
    · rw [finish_link rests, hu]; rfl
  · rw [if_neg ends, show s.tookFrame.settings = s.settings from rfl,
      applyTest_of_head (c := d.marked s.settings) (by simp) (fun y => by simp [empty']) (by simp [empty'])] at hu
    have stays : (if r.kind = .seedEnd then .live else c.state) = c.state := by
      split
      · rename_i kind
        rcases state with h | h
        · exact absurd ⟨kind, by rw [← hd]; exact h⟩ ends
        · exact h.symm
      · rfl
    refine ⟨_, run, ?_, ?_, fun kind seeding => absurd ⟨kind, by rw [← hd]; exact seeding⟩ ends, ?_, others⟩
    · rw [finish_sink? rests, hu, sinked_sink?, if_pos rfl, stays, ← hd]
      simp [SinkCtx.marked, SinkCtx.countAck, empty]
    · rw [finish_sched rests, hu]; exact sched
    · rw [finish_link rests, hu]; rfl

end Sys2Proof.Machine
end

section
/-! SUPPORT. The timers of a stream and the transmission of each class of frame (R43, R80, R87, R96 to R99, R105, R107, R115,
R118, R136, R137). -/

namespace Sys2Proof.Machine

variable {s t u : State} {id : StreamId} {epoch : Epoch} {i : WinIdx} {c d : SourceCtx} {r : Record}

/-! ### The end of an event at a source -/

/-- An event that changes the slots, the link's timers and counters, the port and a source context with its record count
untouched ends so. -/
theorem finish_source_port {l : Link} {x : Sched} {p : Port} (h : s.still = true) (hc : s.source? i = some c)
    (hq : d.queue.length = c.queue.length) (hl : l.state = s.link.state) :
    finish { s.setRole i (.source d) with link := l, sched := x, port := p } =
      { s.setRole i (.source d) with link := l, sched := x, port := p } := by
  generalize ht : ({ s.setRole i (.source d) with link := l, sched := x, port := p } : State) = t
  have heads : ∀ y, t.applyHead y = s.applyHead y := fun y => by rw [← ht]; exact setSource_applyHead hc d y
  have access : t.accessRests := by rw [← ht]; exact still_accessRests (s := s) h
  rw [finish_of_still_heads (t := t) h (by rw [← ht]; rfl) access heads (by rw [← ht]; rfl) (by rw [← ht]; rfl)
    (by rw [← ht]; rfl)]
  apply judgeIfOver_of_eq
  obtain ⟨_, _, _, _, _, _, seen⟩ := still_iff.mp h
  have count : ∀ j, t.recordCount j = s.recordCount j := fun j => by
    have source : t.source? j = if j = i then some d else s.source? j := by
      rw [← ht]; exact setRole_source? s i j (.source d)
    unfold State.recordCount
    rw [source]
    by_cases hj : j = i
    · rw [if_pos hj, hj, hc]
      exact hq
    · rw [if_neg hj]
  have free : t.freeCount = s.freeCount :=
    freeCount_congr (s := s) count (by rw [← ht]; rfl) (by rw [← ht]; rfl)
  have same := conditions_congr (s := s) (t := t) (by rw [← ht]; rfl) (by rw [← ht]; rfl) (by rw [← ht]; exact hl) free
    (by rw [← ht]; rfl)
  rw [same, ← seen, ← ht]
  rfl

theorem finish_source_same {l : Link} {x : Sched} (h : s.still = true) (hc : s.source? i = some c)
    (hq : d.queue.length = c.queue.length) (hl : l.state = s.link.state) :
    finish { s.setRole i (.source d) with link := l, sched := x } =
      { s.setRole i (.source d) with link := l, sched := x } :=
  finish_source_port (p := s.port) h hc hq hl

/-! ### Timers of a stream -/

theorem exec_retransmit (h : s.calm = true) (hw : s.lookup id = some i) (hc : s.source? i = some c)
    (ht : c.retxTimer = some 0) : exec (.retransmitTimerExpiry id) s = .next (finish (retxExpired i c s)) := by
  change Host.Outcome.next (outside (atStream id expireRetx) s) = _
  rw [outside_of_calm h]
  simp only [atStream, hw, expireRetx, hc, ht, if_true]

theorem exec_control (h : s.calm = true) (hw : s.lookup id = some i) (hc : s.source? i = some c)
    (ht : c.ctlTimer = some 0) : exec (.controlTimerExpiry id) s = .next (finish (ctlExpired i c s)) := by
  change Host.Outcome.next (outside (atStream id expireControl) s) = _
  rw [outside_of_calm h]
  simp only [atStream, hw, expireControl, hc, ht, if_true]

theorem exec_ackTimer {c : SinkCtx} (h : s.calm = true) (hw : s.lookup id = some i) (hc : s.sink? i = some c)
    (ht : c.ackTimer = some 0) : exec (.ackTimerExpiry id) s = .next (finish (ackExpired i c s)) := by
  change Host.Outcome.next (outside (atStream id expireAck) s) = _
  rw [outside_of_calm h]
  simp only [atStream, hw, expireAck, hc, ht, if_true]

/-- The expiry of a retransmit timer in the states it runs in (R107). -/
theorem retxExpired_of_open (hs : c.state = .seeding ∨ c.state = .live) : retxExpired i c s =
    if c.retryCount < s.settings.retxLimit then
      s.modSource i fun c => { c.rewind c.oldest with retryCount := c.retryCount + 1, retxTimer := none }
    else faultStream i .noProgress s := by
  unfold retxExpired
  rcases hs with h | h <;> rw [h]

/-- The control frame a context awaits the reply of is placed again (R105). -/
theorem placeControl_sets {body : Body} (hu : s.link.state = .up) (hw : (s.entry i).stream = id)
    (hb : c.state = .opening ∧ (∃ r, c.openReason = some r ∧ body = .openReq (s.entry i).length r)
      ∨ c.state = .resuming ∧ body = .reopen c.oldest c.nextSeq ∨ c.state = .closing ∧ body = .close .fromLocal) :
    placeControl i c s = setCtlSlot id (some { epoch := c.epoch, body := body }) s := by
  have stream : s.streamOf i = id := hw
  unfold placeControl
  rw [stream]
  rcases hb with ⟨h, r, hr, rfl⟩ | ⟨h, rfl⟩ | ⟨h, rfl⟩
  · rw [h, hr]
    exact place_of_up hu _ _ _
  · rw [h]
    exact place_of_up hu _ _ _
  · rw [h]
    exact place_of_up hu _ _ _

/-- Settles O40: the rewind or the fault, the frame again or the end of the tries, and the ACK. -/
theorem streamTimers : Obligations.StreamTimers := by
  unfold Obligations.StreamTimers
  refine ⟨fun s id i c calm found ctx timer state => ⟨fun more => ?rewind, fun done => ?noProgress⟩,
    fun s id i c calm link found ctx timer => ⟨fun left body which => ?again, fun none state => ?noReply,
      fun none state => ?closed⟩,
    fun s id i c calm link found ctx timer state => ⟨fun nak => ?naked, fun noNak => ?acked⟩⟩
  case rewind =>
    rw [exec_retransmit calm found ctx timer, retxExpired_of_open state, if_pos more, modSource_some _ ctx]
    unfold SourceCtx.rewind
    rw [rewind_queue]
    exact congrArg Host.Outcome.next
      (finish_source_same (l := s.link) (x := s.sched) (calm_still calm) ctx (List.length_map _) rfl)
  case noProgress =>
    have run := exec_retransmit calm found ctx timer
    rw [retxExpired_of_open state, if_neg (by omega)] at run
    obtain ⟨source, fault, notice, link, sched, others⟩ := fault_outcome (still_poised (calm_still calm)) ctx .noProgress
    exact ⟨_, _, run, source, rfl, rfl, rfl, rfl, rfl, rfl, fault, notice, link, sched, others⟩
  case again =>
    have stream := (lookup_some found).2
    have again : ctlExpired i c s = placeControl i c (s.modSource i fun c =>
        { c with triesLeft := c.triesLeft - 1, ctlTimer := some s.settings.controlTimeout }) := by
      unfold ctlExpired ctlAgain
      rw [if_pos left, if_pos left]
      rcases which with ⟨h, _⟩ | ⟨h, _⟩ | ⟨h, _⟩ <;> rw [h]
    rw [exec_control calm found ctx timer, again, modSource_some _ ctx]
    generalize hd : ({ c with triesLeft := c.triesLeft - 1, ctlTimer := some s.settings.controlTimeout } : SourceCtx) = d
    have entry : (s.setRole i (.source d)).entry i = { s.entry i with role := .source d } := by simp
    rw [placeControl_sets (s := s.setRole i (.source d)) (c := c) (id := id) link (by rw [entry]; exact stream)
      (by rw [entry]; exact which)]
    exact congrArg Host.Outcome.next (finish_source_same (l := s.link)
      (x := (setCtlSlot id (some { epoch := c.epoch, body := body }) s).sched) (calm_still calm) ctx (by rw [← hd]) rfl)
  case noReply =>
    have run := exec_control calm found ctx timer
    have fault : ctlExpired i c s = faultStream i .noReply s := by
      unfold ctlExpired ctlAgain
      rw [if_neg (by omega), if_neg (by omega)]
      rcases state with h | h <;> rw [h]
    rw [fault] at run
    obtain ⟨source, fault, notice, _, sched, others⟩ := fault_outcome (still_poised (calm_still calm)) ctx .noReply
    exact ⟨_, _, run, source, rfl, rfl, rfl, rfl, rfl, rfl, fault, notice, sched, others⟩
  case closed =>
    have run := exec_control calm found ctx timer
    have closes : ctlExpired i c s = enterClosed i s := by
      unfold ctlExpired ctlAgain
      rw [if_neg (by omega), if_neg (by omega), state]
    rw [closes] at run
    obtain ⟨source, _, sched, others⟩ := closed_outcome (still_poised (calm_still calm)) ctx
    exact ⟨_, _, run, source, rfl, rfl, rfl, rfl, rfl, sched, others⟩
  case naked =>
    have stream : s.streamOf i = id := (lookup_some found).2
    obtain ⟨e, nak⟩ := nak
    have kept : ackExpired i c s = s.sinked i { c with ackTimer := none } s.link s.sched s.ev := by
      have flag : (s.sinked i { c with ackTimer := none } s.link s.sched s.ev).ackFlag id =
          some { isNak := true, seq := c.expected, epoch := e } := nak
      unfold ackExpired
      dsimp only
      rw [modSink_sinked _ ctx, if_pos state, sinked_streamOf, show (s.entry i).stream = id from stream]
      simp [flagAck, flag]
    rw [exec_ackTimer calm found ctx timer, kept, finish_sinked_same (d := { c with ackTimer := none })
      (calm_still calm) ctx (memoryHead_congr rfl rfl rfl) rfl rfl]
    rfl
  case acked =>
    have stream : s.streamOf i = id := (lookup_some found).2
    have acked : ackExpired i c s = s.sinked i { c with ackTimer := none } s.link
        (s.sched.withAck id { isNak := false, seq := c.expected - 1#16, epoch := c.epoch }) s.ev := by
      have same : (s.sinked i { c with ackTimer := none } s.link s.sched s.ev).ackFlag id = s.ackFlag id := rfl
      unfold ackExpired
      dsimp only
      rw [modSink_sinked _ ctx, if_pos state, sinked_streamOf, show (s.entry i).stream = id from stream]
      unfold flagAck
      rw [same]
      have flags := sinked_flag (s := s) (i := i) { c with ackTimer := none } s.link s.sched s.ev link id
        { isNak := false, seq := c.expected - 1#16, epoch := c.epoch }
      cases hf : s.ackFlag id with
      | none => exact flags
      | some f =>
          dsimp only
          rw [if_neg]
          · exact flags
          · rintro ⟨isNak, seq⟩
            exact noNak f.epoch (by rw [hf, ← isNak, ← seq])
    rw [exec_ackTimer calm found ctx timer, acked, finish_sinked_same (d := { c with ackTimer := none })
      (calm_still calm) ctx (memoryHead_congr rfl rfl rfl) rfl rfl]
    rfl

/-! ### Transmission -/

theorem exec_transmissionBegin {ch : Choice} (hx : s.sched.tx = none) (hn : s.nextChoice = some ch) :
    exec .transmissionBegin s = .next (finish (beginFrame ch s)) := by
  have due : s.choiceDue = some ch := by simp only [State.choiceDue, hx, hn]
  change Host.Outcome.next (stepTransmit s) = _
  simp only [stepTransmit, due]

/-- What a scheduler in UP without a due KEEPALIVE chooses (R96). -/
theorem nextChoice_in_up (hu : s.link.state = .up) (hk : s.link.keepaliveDue = false) : s.nextChoice =
    match nextServed s.sched.lastCtl fun id => (s.ctlSlot id).isSome with
    | some id => some (.control id)
    | none =>
        match nextServed s.sched.lastAck fun id => (s.ackFlag id).isSome with
        | some id => some (.ack id)
        | none => (nextServed s.sched.lastRec fun id => (s.sendableFor id).isSome).map .record := by
  unfold State.nextChoice
  rw [hu, hk]
  rfl

/-- The next in rotation, for a test of presence. -/
theorem nextServed_isSome {α : Type} {last : StreamId} {f : StreamId → Option α} {a : α} (hf : f id = some a)
    (hb : ∀ x : StreamId, (x - last - 1#4).toNat < (id - last - 1#4).toNat → f x = none) :
    nextServed last (fun x => (f x).isSome) = some id :=
  nextServed_eq_some (by rw [hf]; rfl) fun x hx => by rw [hb x hx]; rfl

theorem nextServed_isNone {α : Type} {last : StreamId} {f : StreamId → Option α} (hb : ∀ x, f x = none) :
    nextServed last (fun x => (f x).isSome) = none :=
  nextServed_eq_none.mpr fun x => by rw [hb x]; rfl

/-- A transmission in UP restarts the keepalive timer (R87, R95). -/
theorem startFrame_in_up (hu : s.link.state = .up) (f : Frame) : startFrame f s = { s with
    link := { s.link with keepaliveTimer := some s.settings.keepaliveInterval, counters := {
      s.link.counters with framesSent := s.link.counters.framesSent + 1#32 } }
    sched := { s.sched with tx := some f } } := by
  unfold startFrame
  dsimp only
  rw [if_pos (by exact hu)]
  rfl

theorem startFrame_in_training (hu : s.link.state = .training) (f : Frame) : startFrame f s = { s with
    link := { s.link with counters := { s.link.counters with framesSent := s.link.counters.framesSent + 1#32 } }
    sched := { s.sched with tx := some f } } := by
  have notUp : ¬ s.link.state = .up := by simp [hu]
  unfold startFrame
  dsimp only
  rw [if_neg (by exact notUp)]
  rfl

/-- Settles O42: each class's choice, its frame, and the report to the sink. -/
theorem transmitLinkControlAndAck : Obligations.TransmitLinkControlAndAck := by
  unfold Obligations.TransmitLinkControlAndAck
  refine ⟨fun s still free => ⟨fun link due => ?hello, fun link due => ?keepalive, fun link notDue id f slot first => ?control⟩,
    fun s f calm sending => ?ends, fun s id f still free link notDue noCtl flag first => ?ack⟩
  case hello =>
    have choice : s.nextChoice = some .hello := by simp [State.nextChoice, link, due]
    rw [exec_transmissionBegin free choice]
    change Host.Outcome.next (finish (startFrame (.hello Config.linkVersion s.link.heard)
      (modLink (fun l => { l with helloDue := false }) s))) = _
    rw [startFrame_in_training (s := modLink (fun l => { l with helloDue := false }) s) link]
    exact congrArg Host.Outcome.next (finish_of_link_sched still rfl rfl rfl)
  case keepalive =>
    have choice : s.nextChoice = some .keepalive := by simp [State.nextChoice, link, due]
    rw [exec_transmissionBegin free choice]
    change Host.Outcome.next (finish (startFrame .keepalive (modLink (fun l => { l with keepaliveDue := false }) s))) = _
    rw [startFrame_in_up (s := modLink (fun l => { l with keepaliveDue := false }) s) link]
    exact congrArg Host.Outcome.next (finish_of_link_sched still rfl rfl rfl)
  case control =>
    have choice : s.nextChoice = some (.control id) := by
      rw [nextChoice_in_up link notDue, nextServed_isSome slot first]
    have begins : beginFrame (.control id) s = startFrame (.stream id f.epoch f.body)
        (setCtlSlot id none { s with sched := { s.sched with lastCtl := id } }) := by
      simp only [beginFrame, slot]
    rw [exec_transmissionBegin free choice, begins,
      startFrame_in_up (s := setCtlSlot id none { s with sched := { s.sched with lastCtl := id } }) link]
    exact congrArg Host.Outcome.next (finish_of_link_sched still rfl rfl rfl)
  case ends =>
    have ended : endFrame s = { s with sched := { s.sched with tx := none, sent := some (f, s.link.laneReady) } } := by
      simp only [endFrame, sending]
    change Host.Outcome.next (outside endFrame s) = _
    rw [outside_of_calm calm, ended]
    exact congrArg Host.Outcome.next (finish_of_link_sched (calm_still calm) rfl rfl rfl)
  case ack =>
    have choice : s.nextChoice = some (.ack id) := by
      rw [nextChoice_in_up link notDue, nextServed_isNone noCtl, nextServed_isSome flag first]
    have run := exec_transmissionBegin free choice
    generalize hu : setAckFlag id none { s with sched := { s.sched with lastAck := id } } = u
    have windows : u.windows = s.windows := by rw [← hu]; rfl
    have begins : beginFrame (.ack id) s =
        startFrame (.stream id f.epoch (if f.isNak then .nak f.seq else .ack f.seq)) (reportAck id f u) := by
      simp only [beginFrame, flag, hu]
    have reported : reportAck id f u = { u with windows := (reportAck id f u).windows } := by
      unfold reportAck
      split
      · unfold State.modSink
        split
        · rfl
        · rfl
      · rfl
    generalize hr : (reportAck id f u).windows = w at reported
    have up : u.link.state = .up := by rw [← hu]; exact link
    rw [begins, reported, startFrame_in_up (s := { u with windows := w }) up] at run
    generalize ht : ({ u with
      windows := w
      link := { u.link with keepaliveTimer := some u.settings.keepaliveInterval, counters := {
        u.link.counters with framesSent := u.link.counters.framesSent + 1#32 } }
      sched := { u.sched with tx := some (.stream id f.epoch (if f.isNak then .nak f.seq else .ack f.seq)) } } : State) = t
    have made : finish t = _ := congrArg finish ht.symm
    have rests : t.accessRests := by rw [← ht, ← hu]; exact still_accessRests (s := s) still
    refine ⟨finish t, run.trans (congrArg Host.Outcome.next made.symm), ?_, ?_, fun other => ?_, fun i c found ctx same => ?_⟩
    · rw [finish_link rests, ← ht, ← hu]; rfl
    · rw [finish_sched rests, ← ht, ← hu]; rfl
    · rw [finish_windows rests, ← ht]
      change w = _
      rw [← hr]
      rcases other with unfound | ⟨i, found, other⟩
      · have unfound' : u.lookup id = none := (lookup_of_windows windows id).trans unfound
        simp only [reportAck, unfound', windows]
      · have found' : u.lookup id = some i := (lookup_of_windows windows id).trans found
        simp only [reportAck, found']
        cases hc : u.sink? i with
        | none => rw [modSink_none _ hc, windows]
        | some c =>
            have ctx : s.sink? i = some c := by rw [← sink?_of_windows windows]; exact hc
            rw [modSink_some _ hc, if_neg (other c ctx)]
            refine (windows_ext fun j => ?_).trans windows
            have role : (u.entry i).role = .sink c := sink?_eq_some.mp hc
            rw [setRole_entry]
            split
            · rename_i hj
              rw [hj, ← role]
            · rfl
    · rw [finish_windows rests, ← ht]
      change w = _
      rw [← hr]
      have found' : u.lookup id = some i := (lookup_of_windows windows id).trans found
      have ctx' : u.sink? i = some c := (sink?_of_windows windows i).trans ctx
      simp only [reportAck, found', modSink_some _ ctx', if_pos same]
      rw [← hu]
      rfl

/-- Settles O43: the record goes out, and the source context moves past it. -/
theorem transmitRecord : Obligations.TransmitRecord := by
  unfold Obligations.TransmitRecord
  intro s id i c r still free link notDue noCtl noAck found ctx state more at' ready first
  have sendable : s.sendableFor id = some (i, c, r) := by
    have atPtr : c.atPtr = some r := at'
    simp only [State.sendableFor, found, ctx, SourceCtx.sendable, atPtr, ready, if_pos (And.intro state more), if_true,
      Option.map_some]
  have choice : s.nextChoice = some (.record id) := by
    rw [nextChoice_in_up link notDue, nextServed_isNone noCtl, nextServed_isNone noAck, nextServed_isSome sendable first]
    rfl
  have begins : beginFrame (.record id) s = startFrame (.stream id c.epoch (.record r.body))
      { s.setRole i (.source (c.sent r s.settings)) with sched := { s.sched with lastRec := id } } := by
    simp only [beginFrame, sendable]
    rfl
  have timer : (c.sent r s.settings).retxTimer = some (c.retxTimer.getD s.settings.retxTimeout) := by
    unfold SourceCtx.sent
    cases c.retxTimer <;> rfl
  have sent : c.sent r s.settings = { c with
      queue := c.queue.map fun x => if x.seq = r.seq then { x with status := .inFlight, sentBefore := true } else x
      retransmitted := if r.sentBefore then c.retransmitted + 1#32 else c.retransmitted
      recordsSent := c.recordsSent + 1#32, txPtr := c.txPtr + 1#16
      retxTimer := some (c.retxTimer.getD s.settings.retxTimeout) } := by
    rw [← timer]
    rfl
  have length : (c.sent r s.settings).queue.length = c.queue.length := List.length_map _
  rw [exec_transmissionBegin free choice, begins, ← sent]
  generalize c.sent r s.settings = d at length
  have started : startFrame (.stream id c.epoch (.record r.body))
      { s.setRole i (.source d) with sched := { s.sched with lastRec := id } } = { s.setRole i (.source d) with
        link := { s.link with keepaliveTimer := some s.settings.keepaliveInterval, counters := {
          s.link.counters with framesSent := s.link.counters.framesSent + 1#32 } }
        sched := { s.sched with lastRec := id, tx := some (.stream id c.epoch (.record r.body)) } } :=
    startFrame_in_up (s := { s.setRole i (.source d) with sched := { s.sched with lastRec := id } }) link _
  rw [started]
  exact congrArg Host.Outcome.next (finish_source_same (d := d)
    (l := { s.link with keepaliveTimer := some s.settings.keepaliveInterval, counters := {
      s.link.counters with framesSent := s.link.counters.framesSent + 1#32 } })
    (x := { s.sched with lastRec := id, tx := some (.stream id c.epoch (.record r.body)) }) still ctx length rfl)

end Sys2Proof.Machine
end

section
/-! SUPPORT. The stream operations of the management port on a source and on a sink, and what a discard takes from the access
unit and the seed engine (R12, R16, R19, R55, R65, R66, R75, R103, R104, R113, R114, R117, R118, R141, R145, R146). -/

namespace Sys2Proof.Machine

variable {s t u : State} {id : StreamId} {i : WinIdx} {c : SourceCtx} {arg : Byte} {n : Nat}

/-! ### The source operations -/

section Ops

variable (h : s.source? i = some c)
include h

theorem streamOp_open (arg : Byte) : streamOp .openOp arg i s = openSource i c s := by
  simp only [streamOp, source?_eq_some.mp h]

theorem streamOp_close (arg : Byte) : streamOp .close arg i s = closeSource i c s := by
  simp only [streamOp, source?_eq_some.mp h]

theorem streamOp_reseed (arg : Byte) : streamOp .reseed arg i s = reseedSource i c s := by
  simp only [streamOp, source?_eq_some.mp h]

end Ops

/-- CLOSE goes to CLOSED from the states that await nothing, and through CLOSING from the others (R117). -/
theorem closeSource_cases (hs : c.state ≠ .closed) :
    (closeSource i c s = (enterClosed i s, .done)
        ∧ (c.state = .pending ∨ c.state = .suspended ∨ c.state = .fault ∨ c.state = .closing))
      ∨ closeSource i c s = (enterClosing i s, .done)
        ∧ (c.state = .opening ∨ c.state = .seeding ∨ c.state = .live ∨ c.state = .resuming) := by
  unfold closeSource
  cases hc : c.state with
  | closed => exact absurd hc hs
  | pending | suspended | fault | closing => exact .inl ⟨rfl, by simp⟩
  | opening | seeding | live | resuming => exact .inr ⟨rfl, by simp⟩

theorem reseedSource_done
    (hs : c.state = .seeding ∨ c.state = .live ∨ c.state = .suspended ∨ c.state = .resuming ∨ c.state = .fault) :
    reseedSource i c s = (reseed i s, .done) := by
  unfold reseedSource
  rcases hs with h | h | h | h | h <;> rw [h]

/-- An abandoned fence is told (R58). -/
theorem discardEv_told {e : EventUnit} {tag : Tag} (ht : t.ev = discardEv id c e) (hf : c.fence = some tag) :
    t.caused .fenceDone = true ∧ t.noticed id = true := by
  have told : t.ev = (e.addNotice id).raise .fenceDone := by
    rw [ht]
    simp only [discardEv, hf]
  exact ⟨caused_of_raise told, noticed_of_addNotice (by rw [told]; exact EventUnit.raise_grows _ _)⟩

theorem discarded_lastFence {tag : Tag} (hf : c.fence = some tag) : c.discarded.lastFence = some (.abandoned, tag) := by
  simp only [SourceCtx.discarded, hf]

/-- Settles O49: the refusals by state, the opening, the close and the reseed. -/
theorem sourceOperations : Obligations.SourceOperations := by
  unfold Obligations.SourceOperations
  intro s id i c arg n quiet long found ctx
  have still := quiet_still quiet
  have poised := still_poised still
  have stream : (s.entry i).stream = id := (lookup_some found).2
  refine ⟨fun state => ?openRefused, fun state down => ?openPends, fun state up => ?opens, fun state => ?closeRefused,
    fun state => ?closes, fun state => ?reseedRefused, fun state => ?reseeds⟩
  case openRefused =>
    have refused : openSource i c s = (s, .refusedState) := if_neg state
    exact congrArg Host.Outcome.next (manage_streamOp_refused quiet long found ((streamOp_open ctx arg).trans refused))
  case openPends =>
    have pends : openSource i c s = (s.setRole i (.source { c with state := .pending, openReason := some .new }), .done) := by
      simp only [openSource, if_pos state, openOrPend, if_neg down, modSource_some _ ctx]
    have run := manage_streamOp (op := .openOp) (arg := arg) quiet long found
    rw [streamOp_open ctx, pends] at run
    exact congrArg Host.Outcome.next (run.trans (finish_source_port (l := s.link) (x := s.sched)
      (d := { c with state := .pending, openReason := some .new }) still ctx rfl rfl))
  case opens =>
    have opens : openSource i c s = (setCtlSlot id (some { epoch := c.epoch + 1#8, body := .openReq (s.entry i).length .new })
        (s.setEntry i { s.entry i with
          role := .source (c.openingNow .new s.settings.controlTimeout), promotion := none }), .done) := by
      simp only [openSource, if_pos state, openOrPend, if_pos up, enterOpening_eq ctx, stream]
      rw [place_of_up (s := s.setEntry i _) up]
    have run := manage_streamOp (op := .openOp) (arg := arg) quiet long found
    rw [streamOp_open ctx, opens] at run
    generalize he : ({ s.entry i with
      role := .source (c.openingNow .new s.settings.controlTimeout), promotion := none } : Entry) = e at run
    have rests : State.accessRests { setCtlSlot id
        (some { epoch := c.epoch + 1#8, body := .openReq (s.entry i).length .new }) (s.setEntry i e) with
        port := donePort 4 n [] .done } := poised.1
    refine ⟨_, congrArg Host.Outcome.next run, finish_port rests, ?_, finish_sched rests, fun j hj => ?_⟩
    · rw [finish_entry rests]
      exact (setEntry_entry_same s i e).trans he.symm
    · rw [finish_entry rests]
      exact setEntry_entry_ne s i e hj
  case closeRefused =>
    have refused : closeSource i c s = (s, .refusedState) := by simp only [closeSource, state]
    exact congrArg Host.Outcome.next (manage_streamOp_refused quiet long found ((streamOp_close ctx arg).trans refused))
  case closes =>
    have run := manage_streamOp (op := .close) (arg := arg) quiet long found
    have told : ∀ u : State, u.ev = discardEv (s.entry i).stream c s.ev → ∀ tag, c.fence = some tag →
        (finish u).caused .fenceDone = true ∧ (finish u).noticed (s.entry i).stream = true := by
      intro u ev tag fence
      obtain ⟨done, noticed⟩ := discardEv_told ev fence
      exact ⟨finish_caused_of_poised poised rfl (by rw [ev]; exact (discardEv_grows _ _ _).cond) done,
        finish_noticed noticed⟩
    rw [streamOp_close ctx] at run
    rcases closeSource_cases (s := s) (i := i) state with ⟨close, rest⟩ | ⟨close, active⟩
    · rw [close, enterClosed_eq ctx] at run
      generalize hu : s.afterDiscard i c.closedNow (discardEv (s.entry i).stream c s.ev) = u at run
      have rests : State.accessRests { u with port := donePort 4 n [] .done } := by
        rw [← hu]; exact accessRests_of_discard poised.1 rfl rfl
      refine ⟨_, c.closedNow, congrArg Host.Outcome.next run, ?_, finish_port rests, rfl, rfl, rfl, rfl, fun j hj => ?_,
        fun _ => ⟨rfl, rfl, ?_⟩, fun active => ?_, fun tag fence => ⟨rfl, discarded_lastFence fence, ?_⟩⟩
      · rw [finish_source? rests]
        change u.source? i = _
        rw [← hu]
        simp
      · rw [finish_entry rests]
        change u.entry j = _
        rw [← hu]
        simp [hj]
      · rw [finish_sched rests, ← hu]
        rfl
      · rcases rest with h | h | h | h <;> simp [h] at active
      · exact told _ (by rw [← hu]; rfl) tag fence
    · rw [close, enterClosing_eq ctx] at run
      generalize hu : s.afterDiscard i (c.closingNow s.settings.controlTimeout)
        (discardEv (s.entry i).stream c s.ev) = u at run
      have acc : u.acc = s.acc.discard i := by rw [← hu]; rfl
      have bus : u.bus = s.bus := by rw [← hu]; rfl
      have rests : State.accessRests { place (s.entry i).stream c.epoch (.close .fromLocal) u with
          port := donePort 4 n [] .done } := by
        rw [place_frame]
        exact accessRests_of_discard poised.1 acc bus
      refine ⟨_, c.closingNow s.settings.controlTimeout, congrArg Host.Outcome.next run, ?_, finish_port rests, rfl, rfl,
        rfl, rfl, fun j hj => ?_, fun rest => ?_, fun _ => ⟨rfl, rfl, rfl, rfl, fun up => ?_⟩,
        fun tag fence => ⟨rfl, discarded_lastFence fence, ?_⟩⟩
      · rw [finish_source? rests]
        change (place (s.entry i).stream c.epoch (.close .fromLocal) u).source? i = _
        rw [place_source?, ← hu]
        simp
      · rw [finish_entry rests]
        change (place (s.entry i).stream c.epoch (.close .fromLocal) u).entry j = _
        rw [place_entry, ← hu]
        simp [hj]
      · rcases active with h | h | h | h <;> simp [h] at rest
      · rw [finish_sched rests]
        change (place (s.entry i).stream c.epoch (.close .fromLocal) u).sched = _
        rw [place_of_up (by rw [← hu]; exact up), ← hu, stream]
        rfl
      · refine told _ ?_ tag fence
        change (place (s.entry i).stream c.epoch (.close .fromLocal) u).ev = _
        rw [place_ev, ← hu]
        rfl
  case reseedRefused =>
    have refused : reseedSource i c s = (s, .refusedState) := by
      unfold reseedSource
      rcases state with h | h | h | h <;> rw [h]
    exact congrArg Host.Outcome.next (manage_streamOp_refused quiet long found ((streamOp_reseed ctx arg).trans refused))
  case reseeds =>
    have run := manage_streamOp (op := .reseed) (arg := arg) quiet long found
    rw [streamOp_reseed ctx, reseedSource_done state] at run
    have source := reseed_source?_same ctx
    have caused := reseed_caused ctx
    have noticed := reseed_noticed ctx
    have sched := reseed_sched_of_up ctx
    have access := reseed_accessRests ctx poised.1
    have loc := reseed_sourceLocal (i := i) (s := s)
    generalize reseed i s = u at *
    have rests : State.accessRests { u with port := donePort 4 n [] .done } := access
    refine ⟨_, c.reseeded (s.link.state == .up) s.settings.controlTimeout, congrArg Host.Outcome.next run, ?_,
      finish_port rests, reseeded_queue _ _ _, reseeded_cursor _ _ _, reseeded_fence _ _ _, reseeded_openReason _ _ _,
      reseeded_reseeds _ _ _, ?_, ?_, fun up => ?_, fun down => ?_, fun j hj => ?_⟩
    · rw [finish_source? rests]
      exact source
    · exact finish_caused_of_poised (t := { u with port := donePort 4 n [] .done }) poised rfl loc.ev.1 caused
    · exact finish_noticed (s := { u with port := donePort 4 n [] .done }) noticed
    · have opened : c.reseeded (s.link.state == .up) s.settings.controlTimeout =
          c.reseeding.openingNow .reseed s.settings.controlTimeout := by simp [SourceCtx.reseeded, up]
      rw [opened]
      refine ⟨rfl, rfl, ?_⟩
      rw [finish_sched rests]
      refine (sched up).trans ?_
      rw [stream]
      rfl
    · have pends : (s.link.state == .up) = false := by simp [down]
      rw [pends]
      exact ⟨rfl, rfl⟩
    · rw [finish_entry rests]
      exact loc.others j hj

/-! ### What a discard takes from the access unit and the seed engine -/

/-- What every discard of stream `i` leaves of the blocks that may serve it (R55). -/
structure Discarded (i : WinIdx) (s u : State) : Prop where
  acc : u.acc = s.acc.discard i
  seed : u.seed = s.seed.discard i
  arb : u.arb = s.arb
  bus : u.bus = s.bus
  offers : u.offers = { held := true, seed := true }
  resetLow : u.resetLow = s.resetLow
  sources : ∀ j, (s.source? j).isSome = true → (u.source? j).isSome = true

theorem afterDiscard_discarded (d : SourceCtx) (e : EventUnit) : Discarded i s (s.afterDiscard i d e) where
  acc := rfl
  seed := rfl
  arb := rfl
  bus := rfl
  offers := rfl
  resetLow := rfl
  sources j h := by
    rw [afterDiscard_source?]
    split
    · rfl
    · exact h

theorem Discarded.place (h : Discarded i s u) (id : StreamId) (epoch : Epoch) (b : Body) :
    Discarded i s (place id epoch b u) := by
  rw [place_frame]
  exact { h with }

theorem Discarded.port (h : Discarded i s u) (p : Port) : Discarded i s { u with port := p } := { h with }

theorem reseed_discarded (h : s.source? i = some c) : Discarded i s (reseed i s) where
  acc := reseed_acc h
  seed := reseed_seed h
  arb := reseed_sourceLocal.arb
  bus := reseed_sourceLocal.bus
  offers := by
    by_cases hl : s.link.state = .up
    · rw [reseed_eq_of_up h hl]; rfl
    · rw [reseed_eq_of_not_up h hl]; rfl
  resetLow := reseed_sourceLocal.resetLow
  sources j hj := by
    by_cases same : j = i
    · rw [same, reseed_source?_same h]; rfl
    · rw [source?_congr ((reseed_sourceLocal (i := i) (s := s)).others j same)]; exact hj

theorem seedTake_offers_held (s : State) : (seedTake s).offers.held = s.offers.held := by
  unfold seedTake
  split
  · unfold beginChunk
    split
    · rfl
    · unfold tryChunk
      split
      · dsimp only; split <;> rfl
      · rfl
  · rfl

/-- The offer to the held write is due at the end of an event that has released slots (R47). -/
theorem finish_heldOfferDue (hr : s.resetLow = false) (h : s.accessRests) : (finish s).heldOfferDue = s.heldOfferDue := by
  have held : (finish s).offers.held = s.heldOfferDue := by
    unfold finish
    rw [if_neg (by simp [hr]), judgeIfOver_frame, takePresented_of_busy h, applyChoose_frame]
    change (seedTake s).heldOfferDue = _
    unfold State.heldOfferDue
    rw [seedTake_offers_held]
    have phase : (seedTake s).acc.phase = s.acc.phase := by rw [seedTake_frame]
    rw [isHeld_of_phase phase]
  unfold State.heldOfferDue
  rw [held, finish_isHeld h]
  unfold State.heldOfferDue
  cases s.offers.held <;> simp

section Taken

variable (h : Discarded i s u) (hs : s.accessRests) (low : s.resetLow = false)
include h hs

theorem Discarded.accessRests : u.accessRests := accessRests_of_discard hs h.acc h.bus

/-- A reservation for the stream goes, and the request keeps its place (R12). -/
theorem Discarded.requesting {a : Access} (hp : s.acc.phase = .requesting a) :
    (0 < slotsAgainst s.acc.resv i → (finish u).acc = { s.acc with resv := none })
      ∧ (slotsAgainst s.acc.resv i = 0 → (finish u).acc = s.acc) := by
  have acc : (finish u).acc = s.acc.dropResv i := by
    rw [finish_acc (h.accessRests hs), h.acc, AccessUnit.discard_eq, hp]
  rw [acc]
  unfold AccessUnit.dropResv
  exact ⟨fun some => if_neg (by omega), fun none => if_pos none⟩

/-- The hold of the stream's write ends; another stream's held write is offered the slots (R16, R47). -/
theorem Discarded.waiting {a : Access} {w : WinIdx} (low : s.resetLow = false) (hp : s.acc.phase = .waitSlots a w)
    (hr : s.acc.resv = none) :
    (w = i → (finish u).acc = { phase := .requesting a, resv := none, holdTimer := none })
      ∧ (w ≠ i → (finish u).acc = s.acc ∧ (finish u).heldOfferDue = true) := by
  have rests := h.accessRests hs
  have kept : s.acc.dropResv i = s.acc := by simp [AccessUnit.dropResv, hr, slotsAgainst]
  have acc : u.acc = if w = i then { s.acc with phase := .requesting a, holdTimer := none } else s.acc := by
    rw [h.acc, AccessUnit.discard_eq, hp, kept]
  refine ⟨fun own => ?_, fun other => ⟨?_, ?_⟩⟩
  · rw [finish_acc rests, acc, if_pos own]
    dsimp only
    rw [hr]
  · rw [finish_acc rests, acc, if_neg other]
  · rw [finish_heldOfferDue (h.resetLow.trans low) rests]
    simp [State.heldOfferDue, State.isHeld, h.offers, acc, if_neg other, hp]

/-- A granted write of the stream is no longer journaled (R19). -/
theorem Discarded.granted {a : Access} {j : Journaled} (hp : s.acc.phase = .granted a (some j))
    (hr : s.acc.resv = none) :
    (finish u).acc = { s.acc with phase := .granted a (if j.win = i then none else some j) } := by
  have kept : s.acc.dropResv i = s.acc := by simp [AccessUnit.dropResv, hr, slotsAgainst]
  rw [finish_acc (h.accessRests hs), h.acc, AccessUnit.discard_eq, hp, kept]
  dsimp only
  split
  · rfl
  · rw [← hp]

/-- The engine's wait or request for the stream ends, and the next stream is taken (R65, R66). -/
theorem Discarded.engineFreed (low : s.resetLow = false) (ha : s.seed.active = some i) (hf : s.seed.flight = none)
    (hp : s.seed.phase = .slotWait ∨ s.seed.phase = .portWait ∨ s.seed.phase = .endWait) :
    (s.seed.queue.filter (· ≠ i) = [] → (finish u).seed =
        { phase := .idle, active := none, chunkCount := 0, resv := none, flight := none, queue := [] })
      ∧ ∀ (j : WinIdx) (rest : List WinIdx), s.seed.queue.filter (· ≠ i) = j :: rest → (s.source? j).isSome = true →
        (finish u).seed.active = some j ∧ (finish u).seed.queue = rest ∧ (finish u).seed.chunkCount = 0 := by
  have rests := h.accessRests hs
  have busy : s.seed.phase ≠ .reading := by rcases hp with h | h | h <;> simp [h]
  have seed : u.seed = { phase := .idle, active := none, chunkCount := 0, resv := none, flight := none,
                         queue := s.seed.queue.filter (· ≠ i) } := by
    rw [h.seed]
    simp [SeedEngine.discard, SeedEngine.leaveQueue, SeedEngine.drop, hf, ha, busy]
  refine ⟨fun empty => ?_, fun j rest queue source => ?_⟩
  · rw [finish_seed_of_busy rests (.inr (by rw [seed]; exact empty)), seed, empty]
  · rw [finish_seed (h.resetLow.trans low) rests]
    obtain ⟨active, left, count, _⟩ := seedTake_head (s := u) (by rw [seed]) (by rw [seed]; exact queue) (h.sources j source)
    exact ⟨active, left, count⟩

/-- The stream's read is orphaned and loses its fifth slot (R75). -/
theorem Discarded.orphaned {f : Flight} (hf : s.seed.flight = some f) (hp : s.seed.phase = .reading) (hw : f.win = i) :
    (finish u).seed = { s.seed with
      active := if s.seed.active = some i then none else s.seed.active
      chunkCount := if s.seed.active = some i then 0 else s.seed.chunkCount
      resv := none, flight := some { f with fifth := false, orphan := true }
      queue := s.seed.queue.filter (· ≠ i) } := by
  have rests := h.accessRests hs
  have seed : u.seed = { s.seed with
      active := if s.seed.active = some i then none else s.seed.active
      chunkCount := if s.seed.active = some i then 0 else s.seed.chunkCount
      resv := none, flight := some { f with fifth := false, orphan := true }
      queue := s.seed.queue.filter (· ≠ i) } := by
    rw [h.seed]
    by_cases active : s.seed.active = some i
    · simp [SeedEngine.discard, SeedEngine.leaveQueue, hf, hw, active, hp]
    · simp [SeedEngine.discard, SeedEngine.leaveQueue, hf, hw, active]
  rw [finish_seed_of_busy rests (.inl (by rw [seed]; simp [hp])), seed]

/-- The stream leaves the queue of an engine that serves another (R65). -/
theorem Discarded.leftQueue (ha : s.seed.active ≠ some i) (hf : (s.seed.flight.all fun f => f.win != i) = true)
    (hp : s.seed.phase ≠ .idle) : (finish u).seed = { s.seed with queue := s.seed.queue.filter (· ≠ i) } := by
  have rests := h.accessRests hs
  have other : (s.seed.flight.any fun f => f.win == i) = false := by
    cases hx : s.seed.flight with
    | none => rfl
    | some f => simpa [hx] using hf
  have seed : u.seed = { s.seed with queue := s.seed.queue.filter (· ≠ i) } := by
    rw [h.seed]
    simp [SeedEngine.discard, SeedEngine.leaveQueue, other, ha]
  rw [finish_seed_of_busy rests (.inl (by rw [seed]; exact hp)), seed]

end Taken

/-- Settles O50: each of the three events discards, and the rest is what a discard takes. -/
theorem discardAtEngineAndAccessUnit : Obligations.DiscardAtEngineAndAccessUnit := by
  unfold Obligations.DiscardAtEngineAndAccessUnit
  intro s id i c arg n reason quiet long found ctx cmd which
  have still := quiet_still quiet
  have access := still_accessRests still
  have low : s.resetLow = false := calm_resetLow (quiet_calm quiet)
  have discards : ∃ u, exec cmd s = .next (finish u) ∧ Discarded i s u := by
    rcases which with ⟨rfl, state⟩ | ⟨rfl, state⟩ | ⟨rfl, up, state⟩
    · have run := manage_streamOp (op := .close) (arg := arg) quiet long found
      rw [streamOp_close ctx] at run
      rcases closeSource_cases (s := s) (i := i) state with ⟨close, _⟩ | ⟨close, _⟩
      · rw [close, enterClosed_eq ctx] at run
        exact ⟨_, congrArg Host.Outcome.next run, (afterDiscard_discarded _ _).port _⟩
      · rw [close, enterClosing_eq ctx] at run
        exact ⟨_, congrArg Host.Outcome.next run, ((afterDiscard_discarded _ _).place _ _ _).port _⟩
    · have run := manage_streamOp (op := .reseed) (arg := arg) quiet long found
      have state' : c.state = .seeding ∨ c.state = .live ∨ c.state = .suspended ∨ c.state = .resuming
          ∨ c.state = .fault := by
        rcases state with h | h
        · cases hc : c.state <;> simp [hc, SrcState.journals] at h ⊢
        · simp [h]
      rw [streamOp_reseed ctx, reseedSource_done state'] at run
      exact ⟨_, congrArg Host.Outcome.next run, (reseed_discarded ctx).port _⟩
    · have ctx' : s.tookFrame.source? i = some c := ctx
      have run := exec_source_frame (b := .close reason) (quiet_calm quiet) up rfl (.inr ⟨_, rfl⟩) found ctx
      have taken : takeAtSource i c (.close reason) s.tookFrame = faultStream i .peerClosed s.tookFrame := by
        unfold takeAtSource
        rcases state with h | h | h | h <;> rw [h]
      rw [taken, faultStream_eq ctx'] at run
      exact ⟨_, run, { afterDiscard_discarded (s := s.tookFrame) (i := i) _ _ with }⟩
  obtain ⟨u, run, taken⟩ := discards
  have rests := taken.accessRests access
  exact ⟨_, run, (finish_arb rests).trans taken.arb, (finish_bus rests).trans taken.bus,
    fun a phase => taken.requesting access phase, fun a w phase resv => taken.waiting access low phase resv,
    fun a j phase resv => taken.granted access phase resv,
    fun active flight phase => taken.engineFreed access low active flight phase,
    fun f flight phase own => taken.orphaned access flight phase own,
    fun active flight phase => taken.leftQueue access active flight phase⟩

/-! ### The sink operations -/

theorem finish_notice (h : s.accessRests) : (finish s).ev.notice = s.ev.notice := by
  have same : takePresented s = s := takePresented_of_busy h
  rcases finish_ev s with e | e | ⟨now, e, _⟩
  · rw [e]
  · rw [e, same]
  · rw [e, same]
    rfl

/-- The promotion, field by field (R30, R146). -/
theorem promote_eq (c : SinkCtx) : ∃ a, promote i c s =
    noticeWin i (place (s.entry i).stream c.epoch
      (.promoted (c.expected - 1#16) (BitVec.ofNat 8 (c.held.filter (!·.underOp)).length))
      ({ setAckFlag (s.entry i).stream none s with apply := a }.setEntry i { s.entry i with
        role := .source (newSource c.epoch)
        promotion := some { epoch := c.epoch, lastApplied := c.expected - 1#16,
                            discarded := (c.held.filter fun h : Held => !h.underOp).length } })) := by
  unfold promote
  dsimp only
  rw [show s.streamOf i = (s.entry i).stream from rfl, withdrawApply_frame]
  generalize (withdrawApply i (setAckFlag (s.entry i).stream none s)).apply = a
  refine ⟨a, ?_⟩
  have entry : State.entry { setAckFlag (s.entry i).stream none s with apply := a } i = s.entry i := rfl
  rw [entry]
  unfold placePromoted State.streamOf
  rw [setEntry_entry_same]

theorem consistent_of_live {c : SinkCtx} (h : c.state = .live ∨ c.state = .suspended ∧ c.prior = .live) :
    c.consistent = true := by
  unfold SinkCtx.consistent
  rcases h with h | ⟨h, hp⟩
  · rw [h]
  · rw [h, hp]
    rfl

theorem inconsistent_of_seeding {c : SinkCtx}
    (h : c.state = .closed ∨ c.state = .seeding ∨ c.state = .suspended ∧ c.prior = .seeding) : c.consistent = false := by
  unfold SinkCtx.consistent
  rcases h with h | h | ⟨h, hp⟩
  · rw [h]
  · rw [h]
  · rw [h, hp]
    rfl

theorem applying_iff : s.applying i = true ↔ s.apply.phase = .writing ∧ ∃ v, s.apply.served = some v ∧ v.win = i := by
  simp [State.applying, Option.any_eq_true]

/-- Settles O52: the refusals, the close and the promotion. -/
theorem sinkOperations : Obligations.SinkOperations := by
  unfold Obligations.SinkOperations
  intro s id i c arg n quiet long found ctx
  have still := quiet_still quiet
  have poised := still_poised still
  have stream : (s.entry i).stream = id := (lookup_some found).2
  have role := sink?_eq_some.mp ctx
  have close : streamOp .close arg i s = closeSink i c s := by simp only [streamOp, role]
  have promo : streamOp .promote arg i s = promoteSink i c s := by simp only [streamOp, role]
  refine ⟨fun state => ?closeRefused, fun state => ?closes, fun state => ?inconsistent,
    fun state => ⟨fun writing => ?busy, fun free k hk => ?promotes⟩⟩
  case closeRefused =>
    have refused : closeSink i c s = (s, .refusedState) := if_pos state
    exact congrArg Host.Outcome.next (manage_streamOp_refused quiet long found (close.trans refused))
  case inconsistent =>
    have refused : promoteSink i c s = (s, .refusedState) := if_pos (by simp [inconsistent_of_seeding state])
    exact congrArg Host.Outcome.next (manage_streamOp_refused quiet long found (promo.trans refused))
  case busy =>
    have refused : promoteSink i c s = (s, .refusedBusy) := by
      unfold promoteSink
      rw [if_neg (by simp [consistent_of_live state]), if_pos (applying_iff.mpr writing)]
    exact congrArg Host.Outcome.next (manage_streamOp_refused quiet long found (promo.trans refused))
  case closes =>
    have run := manage_streamOp (op := .close) (arg := arg) quiet long found
    have closed : closeSink i c s =
        (place id c.epoch (.close .fromLocal) (closeSinkCtx i .localClose s), .done) := by
      unfold closeSink
      rw [if_neg state, show s.streamOf i = id from stream]
    rw [close, closed] at run
    have loc : SinkLocal i s (place id c.epoch (.close .fromLocal) (closeSinkCtx i .localClose s)) := by
      have closing := closeSinkCtx_sinkLocal (i := i) (s := s) .localClose
      exact closing.trans (place_sinkLocal_of (closing.config.2.2.1.trans stream) _ _)
    obtain ⟨a, eq⟩ := closeSinkCtx_eq (s := s) (i := i) ctx .localClose
    rw [stream] at eq
    generalize closeSinkCtx i .localClose s = v at *
    have rests : State.accessRests { place id c.epoch (.close .fromLocal) v with port := donePort 4 n [] .done } :=
      accessRests_of_eq poised.1 loc.acc loc.bus
    refine ⟨_, congrArg Host.Outcome.next run, finish_port rests, ?_, ?_, fun up => ?_, fun down => ?_, ?_, fun j hj => ?_⟩
    · rw [finish_sink? rests]
      change (place id c.epoch (.close .fromLocal) v).sink? i = _
      rw [place_sink?, eq]
      exact (setRole_sink? s i i _).trans (if_pos rfl)
    · rw [finish_ackFlag rests]
      change (place id c.epoch (.close .fromLocal) v).ackFlag id = _
      rw [place_frame]
      unfold place
      split
      · rw [eq]
        change (setAckFlag id none _).ackFlag id = none
        rw [setAckFlag_ackFlag, if_pos rfl]
      · rw [eq, setAckFlag_ackFlag, if_pos rfl]
    · rw [finish_ctlSlot rests]
      change (place id c.epoch (.close .fromLocal) v).ctlSlot id = _
      rw [place_of_up (by rw [eq]; exact up), setCtlSlot_ctlSlot, if_pos rfl]
    · rw [finish_sched rests]
      change (place id c.epoch (.close .fromLocal) v).sched.ctl = _
      rw [place_of_not_up (by rw [eq]; exact down), eq]
      rfl
    · rw [finish_notice rests]
      change (place id c.epoch (.close .fromLocal) v).ev.notice = _
      rw [place_ev, eq]
      rfl
    · rw [finish_entry rests]
      exact loc.others j hj
  case promotes =>
    have run := manage_streamOp (op := .promote) (arg := arg) quiet long found
    have done : promoteSink i c s = (promote i c s, .done) := by
      unfold promoteSink
      rw [if_neg (by simp [consistent_of_live state]), if_neg (fun h => free (applying_iff.mp h))]
    obtain ⟨a, eq⟩ := promote_eq (s := s) (i := i) c
    rw [stream, ← hk] at eq
    generalize hv : State.setEntry { setAckFlag id none s with apply := a } i { s.entry i with
        role := .source (newSource c.epoch)
        promotion := some { epoch := c.epoch, lastApplied := c.expected - 1#16, discarded := k } } = v at eq
    have entry : v.entry i = { s.entry i with
        role := .source (newSource c.epoch)
        promotion := some { epoch := c.epoch, lastApplied := c.expected - 1#16, discarded := k } } := by
      rw [← hv]; exact setEntry_entry_same _ _ _
    rw [promo, done, eq] at run
    generalize hb : Body.promoted (c.expected - 1#16) (BitVec.ofNat 8 k) = b at run
    have rests : State.accessRests { noticeWin i (place id c.epoch b v) with port := donePort 4 n [] .done } := by
      rw [place_frame, ← hv]
      exact poised.1
    refine ⟨_, congrArg Host.Outcome.next run, finish_port rests, ?_, ?_, ?_, fun up => ?_, fun down => ?_, fun j hj => ?_⟩
    · rw [finish_entry rests]
      change (place id c.epoch b v).entry i = _
      rw [place_entry, entry]
    · rw [finish_ackFlag rests]
      change (place id c.epoch b v).ackFlag id = _
      unfold place
      have flag : v.ackFlag id = none := by
        rw [← hv]
        change (setAckFlag id none s).ackFlag id = none
        rw [setAckFlag_ackFlag, if_pos rfl]
      split
      · exact flag
      · exact flag
    · refine finish_noticed (noticed_of_addNotice (e := (place id c.epoch b v).ev) (EventUnit.Grows.of_eq ?_))
      change (noticeWin i (place id c.epoch b v)).ev = _
      rw [noticeWin_ev, place_entry, entry]
      exact congrArg (fun y => (place id c.epoch b v).ev.addNotice y) stream
    · rw [finish_ctlSlot rests]
      change (place id c.epoch b v).ctlSlot id = _
      rw [place_of_up (by rw [← hv]; exact up), setCtlSlot_ctlSlot, if_pos rfl]
    · rw [finish_sched rests]
      change (place id c.epoch b v).sched.ctl = _
      rw [place_of_not_up (by rw [← hv]; exact down), ← hv]
      rfl
    · rw [finish_entry rests]
      change (place id c.epoch b v).entry j = _
      rw [place_entry, ← hv]
      exact setEntry_entry_ne _ i _ hj

end Sys2Proof.Machine
end

section
/-! SUPPORT. The memory's answer to an apply: the completion, its acknowledgement and the apply test that follows, and the close
on ERROR (R130, R133, R134, R136, R142). -/

namespace Sys2Proof.Machine

variable {s t u : State} {id : StreamId} {i : WinIdx} {b c d k : SinkCtx} {l : Link} {x : Sched} {e : EventUnit} {v : Served}

/-! ### The scheduler alone -/

/-- The state with the scheduler replaced. -/
theorem flag_sched_only (id : StreamId) (f : AckFlag) (s : State) : flag id f s = { s with sched := (flag id f s).sched } := by
  unfold flag
  split <;> rfl

theorem flagAck_sched_only (id : StreamId) (c : SinkCtx) (s : State) :
    flagAck id c s = { s with sched := (flagAck id c s).sched } := by
  unfold flagAck
  split
  · split
    · rfl
    · exact flag_sched_only _ _ _
  · exact flag_sched_only _ _ _

theorem refreshAck_sched_only (id : StreamId) (c : SinkCtx) (s : State) :
    refreshAck id c s = { s with sched := (refreshAck id c s).sched } := by
  unfold refreshAck
  split
  · split <;> rfl
  · rfl

/-- What ACK(e−1) leaves in a flag that holds no unsent NAK(e) (R136). -/
theorem flagAck_ackFlag (hu : s.link.state = .up)
    (hf : ∀ g, s.ackFlag id = some g → ¬ (g.isNak = true ∧ g.seq = c.expected)) :
    (flagAck id c s).ackFlag id = some { isNak := false, seq := c.expected - 1#16, epoch := c.epoch } := by
  have set : (flag id { isNak := false, seq := c.expected - 1#16, epoch := c.epoch } s).ackFlag id =
      some { isNak := false, seq := c.expected - 1#16, epoch := c.epoch } := by
    rw [flag_of_up hu, setAckFlag_ackFlag, if_pos rfl]
  unfold flagAck
  split
  · rename_i g hg
    rw [if_neg (hf g hg)]
    exact set
  · exact set

/-! ### The acknowledgement of a completed apply -/

/-- What a completion does to the acknowledgement flag: the unsent ACK brought up to date, and an ACK flagged where the count
has reached ACK_EVERY (R133, R136). -/
def completeAck (id : StreamId) (b c : SinkCtx) (s : State) : State :=
  let s := refreshAck id c s
  if b.ackCount < s.settings.ackEvery ∧ c.ackCount = s.settings.ackEvery then flagAck id c s else s

theorem completeAck_sched_only (id : StreamId) (b c : SinkCtx) (s : State) :
    completeAck id b c s = { s with sched := (completeAck id b c s).sched } := by
  unfold completeAck
  dsimp only
  rw [refreshAck_sched_only]
  split
  · rw [flagAck_sched_only]
  · rfl

theorem refreshAck_none (h : s.ackFlag id = none) : refreshAck id c s = s := by
  simp only [refreshAck, h]

theorem refreshAck_nak {g : AckFlag} (h : s.ackFlag id = some g) (hn : g.isNak = true) : refreshAck id c s = s := by
  simp only [refreshAck, h, hn, if_true]

theorem refreshAck_ack {g : AckFlag} (h : s.ackFlag id = some g) (hn : g.isNak = false) :
    (refreshAck id c s).ackFlag id = some { g with seq := c.expected - 1#16 } := by
  simp [refreshAck, h, hn]

/-- The count reaches ACK_EVERY with an empty flag. -/
theorem completeAck_reached (hu : s.link.state = .up) (hf : s.ackFlag id = none) (hb : b.ackCount < s.settings.ackEvery)
    (hc : c.ackCount = s.settings.ackEvery) :
    (completeAck id b c s).ackFlag id = some { isNak := false, seq := c.expected - 1#16, epoch := c.epoch } := by
  unfold completeAck
  rw [refreshAck_none hf]
  dsimp only
  rw [if_pos ⟨hb, hc⟩]
  exact flagAck_ackFlag hu (fun g hg => by rw [hf] at hg; cases hg)

/-- An unsent ACK of the context's epoch is brought up to date. -/
theorem completeAck_ack {g : AckFlag} (hf : s.ackFlag id = some g) (hn : g.isNak = false) (he : g.epoch = c.epoch) :
    (completeAck id b c s).ackFlag id = some { g with seq := c.expected - 1#16 } := by
  have fresh := refreshAck_ack (c := c) hf hn
  unfold completeAck
  dsimp only
  split
  · unfold flagAck
    rw [fresh]
    dsimp only
    rw [if_neg (by simp [hn])]
    unfold flag
    split
    · rw [setAckFlag_ackFlag, if_pos rfl, ← hn, ← he]
    · exact fresh
  · exact fresh

/-- An unsent NAK is left unless the count reaches ACK_EVERY. -/
theorem completeAck_nak {g : AckFlag} (hf : s.ackFlag id = some g) (hn : g.isNak = true)
    (hb : ¬ (b.ackCount < s.settings.ackEvery ∧ c.ackCount = s.settings.ackEvery)) :
    (completeAck id b c s).ackFlag id = some g := by
  unfold completeAck
  rw [refreshAck_nak hf hn]
  dsimp only
  rw [if_neg hb]
  exact hf

/-- No NAK comes from a completion. -/
theorem completeAck_no_nak (hf : ∀ g, s.ackFlag id = some g → g.isNak = false) (g : AckFlag)
    (hg : (completeAck id b c s).ackFlag id = some g) : g.isNak = false := by
  have fresh : ∀ g, (refreshAck id c s).ackFlag id = some g → g.isNak = false := by
    intro g hg
    cases hs : s.ackFlag id with
    | none =>
        rw [refreshAck_none hs] at hg
        exact hf g hg
    | some y =>
        have ack := hf y hs
        rw [refreshAck_ack hs ack] at hg
        rw [← Option.some.inj hg]
        exact ack
  unfold completeAck at hg
  dsimp only at hg
  split at hg
  · unfold flagAck at hg
    split at hg
    · split at hg
      · exact fresh g hg
      · unfold flag at hg
        split at hg
        · rw [setAckFlag_ackFlag, if_pos rfl] at hg
          rw [← Option.some.inj hg]
        · exact fresh g hg
    · unfold flag at hg
      split at hg
      · rw [setAckFlag_ackFlag, if_pos rfl] at hg
        rw [← Option.some.inj hg]
      · exact fresh g hg
  · exact fresh g hg

/-! ### The completion -/

/-- The sink context of a completed apply (R133). -/
def SinkCtx.completed (c : SinkCtx) (v : Served) (set : Settings) : SinkCtx :=
  let d := { c with
    held := c.held.filter fun h => v.recs.all fun r => h.body.seq ≠ r.seq
    expected := c.expected + BitVec.ofNat 16 v.recs.length
    applied := c.applied + BitVec.ofNat 32 v.recs.length
    nakOutstanding := false }
  if d.state = .seeding ∨ d.state = .live then d.countAck v.recs.length set else d

theorem completed_state (set : Settings) : (c.completed v set).state = c.state := by
  unfold SinkCtx.completed
  dsimp only
  split <;> rfl

/-- What follows the completion in the context: its acknowledgement and its apply test (R133). -/
def completeRest (i : WinIdx) (before after : Option SinkCtx) (s : State) : State :=
  match before, after with
  | some b, some c =>
      if c.state = .seeding ∨ c.state = .live then
        let s := refreshAck (s.streamOf i) c s
        applyTest i 5 (if b.ackCount < s.settings.ackEvery ∧ c.ackCount = s.settings.ackEvery then
          flagAck (s.streamOf i) c s else s)
      else s
  | _, _ => s

theorem refreshAck_streamOf (id : StreamId) (c : SinkCtx) (s : State) (i : WinIdx) :
    (refreshAck id c s).streamOf i = s.streamOf i := by
  rw [refreshAck_sched_only]
  rfl

theorem completeRest_some (i : WinIdx) (b c : SinkCtx) (s : State) : completeRest i (some b) (some c) s =
    if c.state = .seeding ∨ c.state = .live then applyTest i 5 (completeAck (s.streamOf i) b c s) else s := by
  unfold completeRest completeAck
  dsimp only
  rw [refreshAck_streamOf]

theorem completeApply_completeRest (v : Served) (s : State) : completeApply v s =
    completeRest v.win (s.sink? v.win) ((s.modSink v.win fun c => c.completed v s.settings).sink? v.win)
      (s.modSink v.win fun c => c.completed v s.settings) := by
  unfold completeApply completeRest
  dsimp only
  rfl

/-- A completion, its acknowledgement and its apply test (R133). -/
theorem completeApply_eq (hc : s.sink? v.win = some c) : completeApply v s =
    if c.state = .seeding ∨ c.state = .live then
      applyTest v.win 5 (completeAck (s.entry v.win).stream c (c.completed v s.settings)
        (s.sinked v.win (c.completed v s.settings) s.link s.sched s.ev))
    else s.sinked v.win (c.completed v s.settings) s.link s.sched s.ev := by
  have state := completed_state (c := c) (v := v) s.settings
  have completes : s.modSink v.win (fun c => c.completed v s.settings) =
      s.sinked v.win (c.completed v s.settings) s.link s.sched s.ev := modSink_sinked _ hc
  rw [completeApply_completeRest, completes, hc]
  generalize hd : c.completed v s.settings = d at state ⊢
  rw [show (s.sinked v.win d s.link s.sched s.ev).sink? v.win = some d from by simp]
  rw [completeRest_some, state, sinked_streamOf]

theorem completeAck_sinked (id : StreamId) (b k : SinkCtx) :
    ∃ y, completeAck id b k (s.sinked i d l x e) = s.sinked i d l y e := ⟨_, completeAck_sched_only _ _ _ _⟩

/-! ### A marker or an unusable record next in turn -/

/-- The sink context that has applied a marker at its head (R134). -/
def SinkCtx.afterMarker (c : SinkCtx) (r : RecBody) (set : Settings) : SinkCtx :=
  SinkCtx.countAck { c with held := c.held.filter (·.body.seq ≠ r.seq), expected := c.expected + 1#16,
                            applied := c.applied + 1#32, nakOutstanding := false } 1 set

/-- The acknowledgement of an applied marker (R134). -/
def markerAck (i : WinIdx) (s : State) : State :=
  match s.sink? i with
  | some c => flagAck (s.streamOf i) c s
  | none => s

/-- SEED_END applied while SEEDING makes the context LIVE (R134). -/
def markerEnd (i : WinIdx) (r : RecBody) (s : State) : State :=
  match s.sink? i with
  | some c =>
      if r.kind = .seedEnd ∧ c.state = .seeding then
        raise .streamLive (noticeWin i (s.modSink i fun c => { c with state := .live }))
      else s
  | none => s

theorem applyMarker_steps (i : WinIdx) (r : RecBody) (s : State) :
    applyMarker i r s = markerEnd i r (markerAck i (s.modSink i fun c => c.afterMarker r s.settings)) := rfl

theorem markerAck_of_sink (h : s.sink? i = some c) : markerAck i s = flagAck (s.entry i).stream c s := by
  unfold markerAck
  rw [h]
  rfl

theorem markerEnd_of_sink {r : RecBody} (h : s.sink? i = some c) : markerEnd i r s =
    if r.kind = .seedEnd ∧ c.state = .seeding then
      raise .streamLive (noticeWin i (s.modSink i fun c => { c with state := .live }))
    else s := by
  unfold markerEnd
  rw [h]

/-- Applying a marker moves the context on, flags its ACK, and ends a seeding (R134). -/
theorem applyMarker_flagged (r : RecBody) : ∃ y, applyMarker i r (s.sinked i d l x e) =
      (if r.kind = .seedEnd ∧ d.state = .seeding then
        s.sinked i { d.afterMarker r s.settings with state := .live } l y
          ((e.addNotice (s.entry i).stream).raise .streamLive)
      else s.sinked i (d.afterMarker r s.settings) l y e)
    ∧ (l.state = .up →
        (∀ g, (s.sinked i d l x e).ackFlag (s.entry i).stream = some g → g.isNak = false) →
        y.ack[slotIdx (s.entry i).stream] = some { isNak := false, seq := d.expected, epoch := d.epoch }) := by
  have state : (d.afterMarker r s.settings).state = d.state := rfl
  have back : (d.afterMarker r s.settings).expected - 1#16 = d.expected := by
    change d.expected + 1#16 - 1#16 = d.expected
    exact BitVec.add_sub_cancel _ _
  have epoch : (d.afterMarker r s.settings).epoch = d.epoch := rfl
  generalize hm : d.afterMarker r s.settings = m at state back epoch ⊢
  have acked := flagAck_sched_only (s.entry i).stream m (s.sinked i m l x e)
  generalize hy : (flagAck (s.entry i).stream m (s.sinked i m l x e)).sched = y at acked
  have acked' : flagAck (s.entry i).stream m (s.sinked i m l x e) = s.sinked i m l y e := acked
  have ctx : ∀ x, (s.sinked i m l x e).sink? i = some m := fun x => by simp
  refine ⟨y, ?_, fun up noNak => ?_⟩
  · rw [applyMarker_steps, sinked_modSink, show (s.sinked i d l x e).settings = s.settings from rfl, hm,
      markerAck_of_sink (ctx x), sinked_entry, if_pos rfl, acked', markerEnd_of_sink (ctx y), state]
    split
    · rw [sinked_modSink, sinked_notice]
    · rfl
  · have flagged := flagAck_ackFlag (s := s.sinked i m l x e) (id := (s.entry i).stream) (c := m) up
      (fun g hg h => by
        have ack := noNak g hg
        rw [ack] at h
        cases h.1)
    rw [acked', back, epoch] at flagged
    exact flagged

/-- An unusable record leaves the window, whatever the link's state (R130). -/
theorem discardUnusable_flagged : ∃ y, discardUnusable i (s.sinked i d l x e) = s.sinked i
      { d with held := d.held.filter (·.body.seq ≠ d.expected), nakOutstanding := true }
      { l with counters := { l.counters with staleFrames := l.counters.staleFrames + 1#32 } } y e
    ∧ (l.state = .up → y = x.withAck (s.entry i).stream { isNak := true, seq := d.expected, epoch := d.epoch }) := by
  by_cases up : l.state = .up
  · exact ⟨_, discardUnusable_sinked up, fun _ => rfl⟩
  · refine ⟨x, ?_, fun h => absurd h up⟩
    unfold discardUnusable
    rw [sinked_modSink]
    change nakOnce i (s.sinked i _ { l with
      counters := { l.counters with staleFrames := l.counters.staleFrames + 1#32 } } x e) = _
    generalize hk : ({ d with held := d.held.filter (·.body.seq ≠ d.expected), nakOutstanding := false } : SinkCtx) = k
    generalize hl : ({ l with counters := { l.counters with staleFrames := l.counters.staleFrames + 1#32 } } : Link) = l'
    have ctx : (s.sinked i k l' x e).sink? i = some k := by simp
    have down : (s.sinked i { k with nakOutstanding := true } l' x e).link.state ≠ .up := by
      change l'.state ≠ .up
      rw [← hl]
      exact up
    unfold nakOnce
    rw [ctx]
    dsimp only
    rw [if_neg (by rw [← hk]; simp), sinked_modSink]
    unfold flagNak
    rw [flag_of_not_up down, ← hk]

/-! ### The answer -/

/-- The part whose apply engine has been answered, before its head is completed or closed. -/
def State.applyDone (s : State) : State := { freePort s with apply := s.apply.drop }

theorem exec_applyAnswer_ok {op : MemOp} (h : s.calm = true) (hv : s.apply.served = some v) (ho : s.arb.op = some op)
    (hr : op.requester = .apply) : exec (.applyAnswer .ok) s = .next (finish
      (if (s.sink? v.win).any fun c => c.stillHolds v then completeApply v s.applyDone else s.applyDone)) := by
  change Host.Outcome.next (outside (answerApply true) s) = _
  rw [outside_of_calm h]
  simp only [answerApply, ho, hv, hr, if_true]
  rfl

theorem exec_applyAnswer_error {op : MemOp} (h : s.calm = true) (hv : s.apply.served = some v) (ho : s.arb.op = some op)
    (hr : op.requester = .apply) : exec (.applyAnswer .error) s = .next (finish
      (if (s.sink? v.win).any fun c => c.stillHolds v then applyErrorClose v.win (raise .memoryError s.applyDone)
        else raise .memoryError s.applyDone)) := by
  change Host.Outcome.next (outside (answerApply false) s) = _
  rw [outside_of_calm h]
  simp only [answerApply, ho, hv, hr, if_true]
  rfl

/-- The result of a completion, once the apply test has been made on the completed context. -/
theorem completed_open {set : Settings} (ho : c.state = .seeding ∨ c.state = .live) : c.completed v set = { c with
    held := c.held.filter fun h => v.recs.all fun r => h.body.seq ≠ r.seq
    expected := c.expected + BitVec.ofNat 16 v.recs.length
    applied := c.applied + BitVec.ofNat 32 v.recs.length
    nakOutstanding := false
    ackCount := min (c.ackCount + v.recs.length) set.ackEvery
    ackTimer := if c.ackCount = 0 then some set.ackDelay else c.ackTimer } := by
  unfold SinkCtx.completed
  dsimp only
  rw [if_pos ho]
  rfl

theorem completed_rest {set : Settings} (ho : ¬ (c.state = .seeding ∨ c.state = .live)) : c.completed v set = { c with
    held := c.held.filter fun h => v.recs.all fun r => h.body.seq ≠ r.seq
    expected := c.expected + BitVec.ofNat 16 v.recs.length
    applied := c.applied + BitVec.ofNat 32 v.recs.length
    nakOutstanding := false } := by
  unfold SinkCtx.completed
  dsimp only
  rw [if_neg ho]

end Sys2Proof.Machine
end

section
/-! SUPPORT. The memory's answer to an apply, each case (R130, R133, R134, R142). -/

namespace Sys2Proof.Machine

variable {s t u w : State} {id : StreamId} {i : WinIdx} {b c d k : SinkCtx} {l : Link} {x : Sched} {e : EventUnit} {v : Served}

/-- What the close on ERROR leaves (R142). -/
structure ErrorClosed (i : WinIdx) (c : SinkCtx) (w t : State) : Prop where
  ctx : t.sink? i = some (c.closedFor .applyError)
  ev : t.ev = (w.ev.addNotice (w.entry i).stream).raise .streamClosed
  flag : t.ackFlag (w.entry i).stream = none
  slot : w.link.state = .up → c.state ≠ .suspended →
    t.ctlSlot (w.entry i).stream = some { epoch := c.epoch, body := .close .applyError }

theorem applyErrorClose_of_sink (hc : w.sink? i = some c) : applyErrorClose i w =
    if c.state = .suspended then raise .streamClosed (noticeWin i (closeSinkCtx i .applyError w))
    else place (w.entry i).stream c.epoch (.close .applyError)
      (raise .streamClosed (noticeWin i (closeSinkCtx i .applyError w))) := by
  have stream : State.streamOf (raise .streamClosed (noticeWin i (closeSinkCtx i .applyError w))) i =
      (w.entry i).stream := (closeSinkCtx_sinkLocal (i := i) (s := w) .applyError).config.2.2.1
  unfold applyErrorClose
  rw [hc]
  dsimp only
  rw [stream]

theorem applyErrorClose_closed (hc : w.sink? i = some c) : ErrorClosed i c w (applyErrorClose i w) := by
  have closing := closeSinkCtx_sinkLocal (i := i) (s := w) .applyError
  obtain ⟨a, eq⟩ := closeSinkCtx_eq (s := w) (i := i) hc .applyError
  have ctx : (closeSinkCtx i .applyError w).sink? i = some (c.closedFor .applyError) := by
    rw [eq]
    exact (setRole_sink? w i i _).trans (if_pos rfl)
  have flag : (closeSinkCtx i .applyError w).ackFlag (w.entry i).stream = none := by
    rw [eq, setAckFlag_ackFlag, if_pos rfl]
  have told : (raise .streamClosed (noticeWin i (closeSinkCtx i .applyError w))).ev =
      (w.ev.addNotice (w.entry i).stream).raise .streamClosed := by
    rw [raise_ev, noticeWin_ev, closing.config.2.2.1, eq]
    rfl
  have up : (raise .streamClosed (noticeWin i (closeSinkCtx i .applyError w))).link.state = w.link.state :=
    closing.linkState
  have ctx' : (raise .streamClosed (noticeWin i (closeSinkCtx i .applyError w))).sink? i =
    some (c.closedFor .applyError) := ctx
  have flag' : (raise .streamClosed (noticeWin i (closeSinkCtx i .applyError w))).ackFlag (w.entry i).stream = none :=
    flag
  rw [applyErrorClose_of_sink hc]
  generalize raise .streamClosed (noticeWin i (closeSinkCtx i .applyError w)) = z at told up ctx' flag' ⊢
  split
  · rename_i suspended
    exact ⟨ctx', told, flag', fun _ active => absurd suspended active⟩
  · refine ⟨?_, ?_, ?_, fun hu _ => ?_⟩
    · rw [place_sink?]
      exact ctx'
    · rw [place_ev]
      exact told
    · unfold place
      split
      · exact flag'
      · exact flag'
    · rw [place_of_up (up.trans hu), setCtlSlot_ctlSlot, if_pos rfl]

/-- Settles O24: the completion with each of the three things that can stand next, and the close. -/
theorem applyAnswered : Obligations.ApplyAnswered := by
  unfold Obligations.ApplyAnswered
  refine ⟨fun s v op calm served port requester => ⟨fun c ctx holds clear => ?nothing,
    fun c ctx holds isOpen some' every e he m rest filtered seq => ⟨fun kind clear => ?marker, fun unusable clear => ?unusable⟩,
    fun gone => ?goneOk⟩,
    fun s v op calm served port requester => ⟨fun c ctx holds => ?closes, fun gone => ?goneError⟩⟩
  case nothing =>
    have run := exec_applyAnswer_ok calm served port requester
    have ctx' : s.applyDone.sink? v.win = some c := ctx
    rw [ctx, Option.any_some, if_pos holds, completeApply_eq ctx'] at run
    have rests : ∀ d y, (s.applyDone.sinked v.win d s.link y s.ev).accessRests := fun d y =>
      still_accessRests (s := s) (calm_still calm)
    have others : ∀ d y j, j ≠ v.win → (finish (s.applyDone.sinked v.win d s.link y s.ev)).entry j = s.entry j :=
      fun d y j hj => by rw [finish_entry (rests d y), sinked_entry, if_neg hj]; rfl
    by_cases isOpen : c.state = .seeding ∨ c.state = .live
    · rw [if_pos isOpen] at run
      have made := completed_open (v := v) (set := s.settings) isOpen
      generalize hd : c.completed v s.settings = d at made
      have hd' : c.completed v s.applyDone.settings = d := hd
      obtain ⟨y, acked⟩ := completeAck_sinked (s := s.applyDone) (i := v.win) (d := d) (l := s.link) (x := s.sched)
        (e := s.ev) (s.entry v.win).stream c d
      have run' : exec (.applyAnswer .ok) s =
          .next (finish (applyTest v.win 5 (s.applyDone.sinked v.win d s.link y s.ev))) := by
        rw [← acked]
        rw [hd'] at run
        exact run
      have noHead : d.head = .none := by
        refine head_none_of_gap ?_
        rw [made]
        simp only [SinkCtx.heldAt, List.find?_eq_none, List.mem_filter]
        rintro h ⟨mem, left⟩ same
        have next := List.all_eq_true.mp clear h mem
        rw [Bool.or_eq_true] at next
        rcases next with applied | other
        · obtain ⟨r, hr, eq⟩ := List.any_eq_true.mp applied
          have apart := List.all_eq_true.mp left r hr
          simp only [decide_eq_true_eq] at apart
          exact apart (beq_iff_eq.mp eq).symm
        · simp [beq_iff_eq.mp same] at other
      rw [applyTest_of_head (c := d) (by simp) (fun r => by simp [noHead]) (by simp [noHead])] at run'
      have flags : ∀ g, (completeAck (s.entry v.win).stream c d
          (s.applyDone.sinked v.win d s.link s.sched s.ev)).ackFlag (s.entry v.win).stream = g →
          (finish (s.applyDone.sinked v.win d s.link y s.ev)).ackFlag (s.entry v.win).stream = g := fun g hg => by
        rw [finish_ackFlag (rests d y), ← acked]
        exact hg
      have expected : d.expected = c.expected + BitVec.ofNat 16 v.recs.length := by rw [made]
      have epoch : d.epoch = c.epoch := by rw [made]
      have count : d.ackCount = min (c.ackCount + v.recs.length) s.settings.ackEvery := by rw [made]
      refine ⟨_, run', ?_, ?_, others d y, fun up _ below reached empty => flags _ ?_,
        fun g flag _ => ⟨fun ack same => flags _ ?_, fun nak quiet => flags _ ?_⟩, fun suspended => ?_⟩
      · rw [finish_arb (rests d y)]; rfl
      · rw [finish_sink? (rests d y), sinked_sink?, if_pos rfl, made]
        simp [isOpen]
      · rw [← expected, ← epoch]
        exact completeAck_reached (s := s.applyDone.sinked v.win d s.link s.sched s.ev) up empty below
          (by rw [count]; exact Nat.min_eq_right reached)
      · rw [← expected]
        exact completeAck_ack (s := s.applyDone.sinked v.win d s.link s.sched s.ev) flag ack (by rw [epoch, same])
      · refine completeAck_nak (s := s.applyDone.sinked v.win d s.link s.sched s.ev) flag nak ?_
        rw [count]
        change ¬ (c.ackCount < s.settings.ackEvery ∧ _ = s.settings.ackEvery)
        rintro ⟨below, reached⟩
        omega
      · rcases isOpen with h | h <;> simp [h] at suspended
    · rw [if_neg isOpen] at run
      have made := completed_rest (v := v) (set := s.settings) isOpen
      generalize hd : c.completed v s.settings = d at made
      have hd' : c.completed v s.applyDone.settings = d := hd
      rw [hd', show s.applyDone.link = s.link from rfl, show s.applyDone.sched = s.sched from rfl,
        show s.applyDone.ev = s.ev from rfl] at run
      refine ⟨_, run, ?_, ?_, others d s.sched, fun _ h => absurd h isOpen, fun _ _ h => absurd h isOpen, fun _ => ?_⟩
      · rw [finish_arb (rests d s.sched)]; rfl
      · refine (finish_sink? (rests d s.sched) v.win).trans ?_
        rw [sinked_sink?, if_pos rfl, made, if_neg isOpen, if_neg (fun h => isOpen h.1)]
      · rw [finish_sched (rests d s.sched)]
        rfl
  case marker =>
    have run := exec_applyAnswer_ok calm served port requester
    have ctx' : s.applyDone.sink? v.win = some c := ctx
    rw [ctx, Option.any_some, if_pos holds, completeApply_eq ctx', if_pos isOpen] at run
    have made := completed_open (v := v) (set := s.settings) isOpen
    generalize hd : c.completed v s.settings = d at made
    have hd' : c.completed v s.applyDone.settings = d := hd
    rw [filtered, ← he] at made
    have state : d.state = c.state := by rw [made]
    have head : d.head = .marker m := by
      refine head_marker (by rw [state]; exact isOpen) ?_ kind
      rw [made]
      simp [SinkCtx.heldAt, seq]
    have left : rest.filter (fun h => decide (h.body.seq ≠ m.seq)) = rest := by
      refine List.filter_eq_self.mpr fun h mem => ?_
      have next := List.all_eq_true.mp clear h mem
      rw [Bool.and_eq_true] at next
      rw [seq]
      exact next.1
    have count : ¬ min (c.ackCount + v.recs.length) s.settings.ackEvery = 0 := by omega
    have after : d.afterMarker m s.settings = { c with
        held := rest, expected := e + 1#16, applied := c.applied + BitVec.ofNat 32 (v.recs.length + 1)
        nakOutstanding := false, ackCount := min (c.ackCount + v.recs.length + 1) s.settings.ackEvery
        ackTimer := if c.ackCount = 0 then some s.settings.ackDelay else c.ackTimer } := by
      have more : c.applied + BitVec.ofNat 32 v.recs.length + 1#32 = c.applied + BitVec.ofNat 32 (v.recs.length + 1) := by
        rw [BitVec.ofNat_add, BitVec.add_assoc]
      have least : min (min (c.ackCount + v.recs.length) s.settings.ackEvery + 1) s.settings.ackEvery =
          min (c.ackCount + v.recs.length + 1) s.settings.ackEvery := by omega
      rw [made]
      simp only [SinkCtx.afterMarker, SinkCtx.countAck, List.filter_cons, left, more, least, if_neg count, ne_eq,
        not_true_eq_false, decide_false, Bool.false_eq_true, if_false]
    obtain ⟨y, acked⟩ := completeAck_sinked (s := s.applyDone) (i := v.win) (d := d) (l := s.link) (x := s.sched)
      (e := s.ev) (s.entry v.win).stream c d
    obtain ⟨z, applied, flagged⟩ := applyMarker_flagged (s := s.applyDone) (i := v.win) (d := d) (l := s.link) (x := y)
      (e := s.ev) m
    rw [show s.applyDone.settings = s.settings from rfl] at applied
    have run' : exec (.applyAnswer .ok) s =
        .next (finish (applyTest v.win 4 (applyMarker v.win m (s.applyDone.sinked v.win d s.link y s.ev)))) := by
      rw [← applyTest_marker (c := d) (by simp) head, ← acked]
      rw [hd'] at run
      exact run
    generalize hk : (if m.kind = .seedEnd ∧ d.state = .seeding then
      { d.afterMarker m s.settings with state := .live } else d.afterMarker m s.settings : SinkCtx) = k
    have result : ∃ ev, applyMarker v.win m (s.applyDone.sinked v.win d s.link y s.ev) =
          s.applyDone.sinked v.win k s.link z ev
        ∧ s.ev.Grows ev ∧ (m.kind = .seedEnd ∧ d.state = .seeding →
          ev = (s.ev.addNotice (s.entry v.win).stream).raise .streamLive) := by
      rw [applied, ← hk]
      by_cases ends : m.kind = .seedEnd ∧ d.state = .seeding
      · rw [if_pos ends, if_pos ends]
        exact ⟨_, rfl, (s.ev.addNotice_grows _).trans (EventUnit.raise_grows _ _), fun _ => rfl⟩
      · rw [if_neg ends, if_neg ends]
        exact ⟨_, rfl, EventUnit.Grows.refl _, fun h => absurd h ends⟩
    obtain ⟨ev, eq, grows, told⟩ := result
    have final : k = { c with
        held := rest, expected := e + 1#16, applied := c.applied + BitVec.ofNat 32 (v.recs.length + 1)
        nakOutstanding := false, ackCount := min (c.ackCount + v.recs.length + 1) s.settings.ackEvery
        ackTimer := if c.ackCount = 0 then some s.settings.ackDelay else c.ackTimer
        state := if m.kind = .seedEnd then .live else c.state } := by
      rw [← hk, after, state]
      by_cases kind' : m.kind = .seedEnd
      · by_cases seeding : c.state = .seeding
        · rw [if_pos ⟨kind', seeding⟩, if_pos kind']
        · rw [if_neg (fun h => seeding h.2), if_pos kind', ← isOpen.resolve_left seeding]
      · rw [if_neg (fun h => kind' h.1), if_neg kind']
    have noHead : k.head = .none := by
      refine head_none_of_gap ?_
      rw [final]
      simp only [SinkCtx.heldAt, List.find?_eq_none]
      intro h mem same
      have next := List.all_eq_true.mp clear h mem
      simp [beq_iff_eq.mp same] at next
    rw [eq, applyTest_of_head (c := k) (by simp) (fun r => by simp [noHead]) (by simp [noHead])] at run'
    have rests : (s.applyDone.sinked v.win k s.link z ev).accessRests := still_accessRests (s := s) (calm_still calm)
    refine ⟨_, run', ?_, ?_, fun up noNak => ?_, fun kind' seeding => ?_, fun j hj => ?_⟩
    · rw [finish_arb rests]; rfl
    · rw [finish_sink? rests, sinked_sink?, if_pos rfl, final]
    · rw [finish_ackFlag rests]
      have last := flagged up (fun g hg => completeAck_no_nak (b := c) (c := d)
        (s := s.applyDone.sinked v.win d s.link s.sched s.ev) (id := (s.entry v.win).stream) (fun g hg => by
          have flag : s.ackFlag (s.entry v.win).stream = some g := hg
          rw [flag] at noNak
          simpa using noNak) g (by rw [acked]; exact hg))
      have expected : d.expected = e := by rw [made]
      have epoch : d.epoch = c.epoch := by rw [made]
      rw [expected, epoch] at last
      exact last
    · have ev_eq := told ⟨kind', by rw [state]; exact seeding⟩
      refine ⟨finish_caused_of_poised (still_poised (calm_still calm)) rfl grows.cond (caused_of_raise ev_eq),
        finish_noticed (noticed_of_addNotice (e := s.ev) ?_)⟩
      change (s.ev.addNotice (s.entry v.win).stream).Grows ev
      rw [ev_eq]
      exact EventUnit.raise_grows _ _
    · rw [finish_entry rests, sinked_entry, if_neg hj]; rfl
  case unusable =>
    have run := exec_applyAnswer_ok calm served port requester
    have ctx' : s.applyDone.sink? v.win = some c := ctx
    rw [ctx, Option.any_some, if_pos holds, completeApply_eq ctx', if_pos isOpen] at run
    have made := completed_open (v := v) (set := s.settings) isOpen
    generalize hd : c.completed v s.settings = d at made
    have hd' : c.completed v s.applyDone.settings = d := hd
    rw [filtered, ← he] at made
    have head : d.head = .unusable := by
      rw [← unusable]
      exact head_congr (by rw [made]) (by rw [made]) (by rw [made])
    have left : rest.filter (fun h => decide (h.body.seq ≠ e)) = rest := by
      refine List.filter_eq_self.mpr fun h mem => ?_
      have next := List.all_eq_true.mp clear h mem
      simpa using next
    obtain ⟨y, acked⟩ := completeAck_sinked (s := s.applyDone) (i := v.win) (d := d) (l := s.link) (x := s.sched)
      (e := s.ev) (s.entry v.win).stream c d
    obtain ⟨z, discarded, flagged⟩ := discardUnusable_flagged (s := s.applyDone) (i := v.win) (d := d) (l := s.link)
      (x := y) (e := s.ev)
    have run' : exec (.applyAnswer .ok) s =
        .next (finish (discardUnusable v.win (s.applyDone.sinked v.win d s.link y s.ev))) := by
      rw [← applyTest_unusable (c := d) (by simp) head 4, ← acked]
      rw [hd'] at run
      exact run
    have final : ({ d with held := d.held.filter (·.body.seq ≠ d.expected), nakOutstanding := true } : SinkCtx) =
        { c with
          held := rest, expected := e, applied := c.applied + BitVec.ofNat 32 v.recs.length
          nakOutstanding := true, ackCount := min (c.ackCount + v.recs.length) s.settings.ackEvery
          ackTimer := if c.ackCount = 0 then some s.settings.ackDelay else c.ackTimer } := by
      rw [made]
      simp only [List.filter_cons, left, seq, ne_eq, not_true_eq_false, decide_false, Bool.false_eq_true, if_false]
    rw [discarded, final] at run'
    have expected : d.expected = e := by rw [made]
    have epoch : d.epoch = c.epoch := by rw [made]
    generalize hk : ({ c with
          held := rest, expected := e, applied := c.applied + BitVec.ofNat 32 v.recs.length
          nakOutstanding := true, ackCount := min (c.ackCount + v.recs.length) s.settings.ackEvery
          ackTimer := if c.ackCount = 0 then some s.settings.ackDelay else c.ackTimer } : SinkCtx) = k at run' ⊢
    have rests : (s.applyDone.sinked v.win k { s.link with
        counters := { s.link.counters with staleFrames := s.link.counters.staleFrames + 1#32 } } z s.ev).accessRests :=
      still_accessRests (s := s) (calm_still calm)
    refine ⟨_, run', ?_, ?_, finish_link rests, fun up => ?_, fun j hj => ?_⟩
    · rw [finish_arb rests]; rfl
    · rw [finish_sink? rests, sinked_sink?, if_pos rfl]
    · rw [finish_ackFlag rests, flagged up, expected, epoch]
      change (y.ack.set (slotIdx (s.entry v.win).stream) _)[slotIdx (s.entry v.win).stream] = _
      exact Vector.getElem_set_self _
    · rw [finish_entry rests, sinked_entry, if_neg hj]; rfl
  case goneOk =>
    have run := exec_applyAnswer_ok calm served port requester
    have none : (s.sink? v.win).any (fun c => c.stillHolds v) = false := by
      cases hc : s.sink? v.win with
      | none => rfl
      | some c => simpa [hc] using gone
    rw [none, if_neg (by simp)] at run
    have rests : s.applyDone.accessRests := still_accessRests (s := s) (calm_still calm)
    exact ⟨_, run, finish_windows rests, finish_sched rests, by rw [finish_arb rests]; rfl⟩
  case closes =>
    have run := exec_applyAnswer_error calm served port requester
    rw [ctx, Option.any_some, if_pos holds] at run
    have poised : (raise .memoryError s.applyDone).poised :=
      (still_poised (calm_still calm)).of_eq rfl rfl rfl
    have raised : (raise .memoryError s.applyDone).caused .memoryError = true := caused_of_raise (e := s.ev) rfl
    have ctx' : (raise .memoryError s.applyDone).sink? v.win = some c := ctx
    have entry : ∀ j, (raise .memoryError s.applyDone).entry j = s.entry j := fun _ => rfl
    have link : (raise .memoryError s.applyDone).link = s.link := rfl
    generalize raise .memoryError s.applyDone = w at run poised raised ctx' entry link
    have loc := applyErrorClose_sinkLocal (i := v.win) (s := w)
    have closed := applyErrorClose_closed ctx'
    have rests := loc.accessRests poised.1
    generalize applyErrorClose v.win w = z at run loc closed rests
    obtain ⟨ctxClosed, ev, flag, slot⟩ := closed
    rw [entry] at ev flag slot
    have told : w.ev.addNotice (s.entry v.win).stream |>.Grows z.ev := by
      rw [ev]
      exact EventUnit.raise_grows _ _
    refine ⟨_, c.closedFor .applyError, run, (finish_sink? rests v.win).trans ctxClosed, rfl,
      finish_caused_of_poised poised rfl loc.ev.1 (loc.grows.caused raised),
      finish_caused_of_poised poised rfl loc.ev.1 (caused_of_raise ev), finish_noticed (noticed_of_addNotice told),
      (finish_ackFlag rests _).trans flag, fun up active => ?_, fun j hj => ?_⟩
    · exact (finish_ctlSlot rests _).trans (slot (by rw [link]; exact up) active)
    · rw [finish_entry rests, loc.others j hj, entry]
  case goneError =>
    have run := exec_applyAnswer_error calm served port requester
    have none : (s.sink? v.win).any (fun c => c.stillHolds v) = false := by
      cases hc : s.sink? v.win with
      | none => rfl
      | some c => simpa [hc] using gone
    rw [none, if_neg (by simp)] at run
    have rests : (raise .memoryError s.applyDone).accessRests := still_accessRests (s := s) (calm_still calm)
    exact ⟨_, run, finish_windows rests, finish_sched rests,
      finish_caused_of_poised (still_poised (calm_still calm)) rfl rfl (caused_of_raise (e := s.ev) rfl)⟩

end Sys2Proof.Machine
end

section
/-! SUPPORT. The link's leaving UP: what each stream does then, and what the sweep of all windows keeps (R54, R74, R88, R111,
R138). -/

namespace Sys2Proof.Machine

variable {s t u : State} {i j : WinIdx} {c : SourceCtx} {k : SinkCtx}

/-! ### Sweeps -/

theorem allWindows_nodup : allWindows.Nodup := by decide

/-- A sweep at one of its windows: what stands before the window's own step, and after it, a relation carries over the
steps of the other windows. -/
theorem foldl_at {f : State → WinIdx → State} {R : State → State → Prop} (refl : ∀ s, R s s)
    (trans : ∀ s t u, R s t → R t u → R s u) {i : WinIdx} (step : ∀ s j, j ≠ i → R s (f s j)) {l : List WinIdx}
    (nodup : l.Nodup) (mem : i ∈ l) (s : State) : ∃ u, R s u ∧ R (f u i) (l.foldl f s) := by
  have rest : ∀ (l : List WinIdx) (s : State), i ∉ l → R s (l.foldl f s) := by
    intro l
    induction l with
    | nil => exact fun s _ => refl s
    | cons j l ih =>
        intro s out
        rw [List.mem_cons, not_or] at out
        exact trans _ _ _ (step s j (Ne.symm out.1)) (ih _ out.2)
  induction l generalizing s with
  | nil => cases mem
  | cons j l ih =>
      obtain ⟨fresh, nodup⟩ := List.nodup_cons.mp nodup
      by_cases same : j = i
      · subst same
        exact ⟨s, refl s, rest l _ fresh⟩
      · obtain ⟨u, before, after⟩ := ih nodup ((List.mem_cons.mp mem).resolve_left (Ne.symm same)) (f s j)
        exact ⟨u, trans _ _ _ (step s j same) before, after⟩

theorem foldl_all {f : State → WinIdx → State} {R : State → State → Prop} (refl : ∀ s, R s s)
    (trans : ∀ s t u, R s t → R t u → R s u) (step : ∀ s j, R s (f s j)) (l : List WinIdx) (s : State) :
    R s (l.foldl f s) := by
  induction l generalizing s with
  | nil => exact refl s
  | cons j l ih => exact trans _ _ _ (step s j) (ih _)

/-- What a window's step leaves in its own entry, a sweep leaves there. -/
theorem foldl_entry {f : State → WinIdx → State} (others : ∀ s j k, k ≠ j → (f s j).entry k = s.entry k) (i : WinIdx)
    (s : State) : ∃ u, u.entry i = s.entry i ∧ (allWindows.foldl f s).entry i = (f u i).entry i :=
  foldl_at (R := fun s t => t.entry i = s.entry i) (fun _ => rfl) (fun _ _ _ h k => k.trans h)
    (fun s j hj => others s j i (Ne.symm hj)) allWindows_nodup (mem_allWindows i) s

/-! ### What the streams keep -/

/-- What the streams keep of the part as the link leaves UP. -/
structure StreamsLeft (s t : State) : Prop where
  kept : Kept s t
  bus : t.bus = s.bus
  arb : t.arb = s.arb
  link : t.link = s.link
  sched : t.sched = s.sched
  rests : s.accessRests → t.accessRests
  grows : s.ev.Grows t.ev
  offered : s.offers.held = true → t.offers.held = true

theorem StreamsLeft.refl (s : State) : StreamsLeft s s :=
  ⟨Kept.refl s, rfl, rfl, rfl, rfl, id, EventUnit.Grows.refl _, id⟩

theorem StreamsLeft.trans (h : StreamsLeft s t) (k : StreamsLeft t u) : StreamsLeft s u :=
  ⟨h.kept.trans k.kept, k.bus.trans h.bus, k.arb.trans h.arb, k.link.trans h.link, k.sched.trans h.sched,
    fun r => k.rests (h.rests r), h.grows.trans k.grows, fun o => k.offered (h.offered o)⟩

theorem StreamLocal.streamsLeft (h : StreamLocal i s t) (link : t.link = s.link) (sched : t.sched = s.sched)
    (rests : s.accessRests → t.accessRests) (offered : s.offers.held = true → t.offers.held = true) : StreamsLeft s t :=
  ⟨h.kept, h.bus, h.arb, link, sched, rests, h.grows, offered⟩

theorem modSource_streamsLeft (f : SourceCtx → SourceCtx) : StreamsLeft s (s.modSource i f) :=
  (modSource_sourceLocal f).toStreamLocal.streamsLeft (by simp) (by simp)
    (fun r => accessRests_of_eq r (by simp) (by simp)) (fun o => by rw [modSource_offers]; exact o)

/-- The context of a suspended stream (R54, R111). -/
def SourceCtx.suspendedIn (c : SourceCtx) (p : Prior) : SourceCtx :=
  { c with state := .suspended, prior := p, retxTimer := none, queue := c.queue.map Record.toReady }

/-- A suspension: the context, the seed engine, and the release of slots the engine returns (R65, R74, R111). -/
theorem suspendSource_eq (h : s.source? i = some c) (p : Prior) : suspendSource i p s =
    { s.setRole i (.source (c.suspendedIn p)) with
      seed := s.seed.suspend i
      offers := if s.seed.phase = .portWait ∧ s.seed.active = some i then { held := true, seed := true }
        else s.offers } := by
  unfold suspendSource
  dsimp only
  rw [modSource_some _ h, setRole_seed]
  split
  · rfl
  · rfl

theorem suspendSource_streamsLeft (h : s.source? i = some c) (p : Prior) : StreamsLeft s (suspendSource i p s) := by
  refine (suspendSource_sourceLocal p).toStreamLocal.streamsLeft ?_ ?_ (fun r => ?_) fun o => ?_
  · rw [suspendSource_eq h]; rfl
  · rw [suspendSource_eq h]; rfl
  · exact accessRests_of_eq r (by rw [suspendSource_eq h]; rfl) (by rw [suspendSource_eq h]; rfl)
  · rw [suspendSource_eq h]
    dsimp only
    split
    · rfl
    · exact o

theorem enterClosed_streamsLeft (h : s.source? i = some c) : StreamsLeft s (enterClosed i s) := by
  refine enterClosed_sourceLocal.toStreamLocal.streamsLeft ?_ ?_ (fun r => ?_) fun _ => ?_
  · rw [enterClosed_eq h, afterDiscard_link]
  · rw [enterClosed_eq h, afterDiscard_sched]
  · exact accessRests_of_discard r (by rw [enterClosed_eq h, afterDiscard_acc]) (by rw [enterClosed_eq h, afterDiscard_bus])
  · rw [enterClosed_eq h, afterDiscard_offers]

theorem sourceLinkLeft_streamsLeft (i : WinIdx) : StreamsLeft s (sourceLinkLeft s i) := by
  unfold sourceLinkLeft
  split
  · exact StreamsLeft.refl s
  · rename_i c hc
    split
    · exact suspendSource_streamsLeft hc _
    · exact suspendSource_streamsLeft hc _
    · exact modSource_streamsLeft _
    · exact modSource_streamsLeft _
    · exact enterClosed_streamsLeft hc
    · exact StreamsLeft.refl s

theorem sinkLinkLeft_streamsLeft (i : WinIdx) : StreamsLeft s (sinkLinkLeft s i) := by
  have withdrawn : ∀ f : SinkCtx → SinkCtx, StreamsLeft s (withdrawApply i (s.modSink i f)) := fun f => by
    have loc := (modSink_sinkLocal (i := i) (s := s) f).trans (withdrawApply_sinkLocal i)
    refine loc.toStreamLocal.streamsLeft ?_ ?_ loc.accessRests fun o => ?_
    · rw [withdrawApply_frame]; simp
    · rw [withdrawApply_frame]; simp
    · rw [loc.offers]; exact o
  unfold sinkLinkLeft
  split
  · split
    · exact withdrawn _
    · exact withdrawn _
    · exact StreamsLeft.refl s
  · exact StreamsLeft.refl s

theorem streamsLeft_sweep (s : State) :
    StreamsLeft s (allWindows.foldl sinkLinkLeft (allWindows.foldl sourceLinkLeft s)) :=
  (foldl_all StreamsLeft.refl (fun _ _ _ => StreamsLeft.trans) (fun _ j => sourceLinkLeft_streamsLeft j) _ s).trans
    (foldl_all StreamsLeft.refl (fun _ _ _ => StreamsLeft.trans) (fun _ j => sinkLinkLeft_streamsLeft j) _ _)

theorem leaveUp_streamsLeft : StreamsLeft (clearSched (modLink Link.left s)) (leaveUp s) := streamsLeft_sweep _

/-! ### What each stream does -/

/-- A source context when the link has left UP (R54, R111). -/
def SourceCtx.linkLeft (c : SourceCtx) : SourceCtx :=
  match c.state with
  | .seeding => c.suspendedIn .seeding
  | .live => c.suspendedIn .live
  | .opening => { c with state := .pending, ctlTimer := none, triesLeft := 0 }
  | .resuming => { c with state := .suspended, ctlTimer := none, triesLeft := 0 }
  | .closing => c.closedNow
  | _ => c

/-- A sink context when the link has left UP (R138). -/
def SinkCtx.linkLeft (c : SinkCtx) : SinkCtx :=
  match c.state with
  | .seeding => { c.clearAck with state := .suspended, prior := .seeding, held := keepUnderOp c.held }
  | .live => { c.clearAck with state := .suspended, prior := .live, held := keepUnderOp c.held }
  | _ => c

theorem suspendSource_source? (h : s.source? i = some c) (p : Prior) :
    (suspendSource i p s).source? i = some (c.suspendedIn p) := by
  rw [suspendSource_eq h]
  exact (setRole_source? s i i _).trans (if_pos rfl)

theorem sourceLinkLeft_source? (h : s.source? i = some c) : (sourceLinkLeft s i).source? i = some c.linkLeft := by
  unfold sourceLinkLeft SourceCtx.linkLeft
  rw [h]
  dsimp only
  cases hc : c.state <;> dsimp only
  case seeding => exact suspendSource_source? h _
  case live => exact suspendSource_source? h _
  case opening => rw [modSource_source?, if_pos rfl, h, Option.map_some]
  case resuming => rw [modSource_source?, if_pos rfl, h, Option.map_some]
  case closing => rw [enterClosed_eq h, afterDiscard_source?, if_pos rfl]
  all_goals exact h

theorem sourceLinkLeft_of_no_source (h : s.source? i = none) : sourceLinkLeft s i = s := by
  unfold sourceLinkLeft
  rw [h]

theorem sinkLinkLeft_of_no_sink (h : s.sink? i = none) : sinkLinkLeft s i = s := by
  unfold sinkLinkLeft
  rw [h]

theorem sinkLinkLeft_sink? (h : s.sink? i = some k) : (sinkLinkLeft s i).sink? i = some k.linkLeft := by
  have kept : ∀ t : State, (withdrawApply i t).sink? i = t.sink? i := fun t => by
    rw [withdrawApply_frame]
    rfl
  unfold sinkLinkLeft SinkCtx.linkLeft
  rw [h]
  dsimp only
  cases hk : k.state <;> dsimp only
  case seeding => rw [kept, modSink_sink?, if_pos rfl, h, Option.map_some]
  case live => rw [kept, modSink_sink?, if_pos rfl, h, Option.map_some]
  all_goals exact h

/-- Each source context after the sweep (R111). -/
theorem leaveUp_source? (h : s.source? i = some c) : (leaveUp s).source? i = some c.linkLeft := by
  obtain ⟨u, same, step⟩ := foldl_entry (fun s j k hk => (sourceLinkLeft_sourceLocal (s := s)).others k hk) i
    (clearSched (modLink Link.left s))
  obtain ⟨v, same', step'⟩ := foldl_entry (fun s j k hk => (sinkLinkLeft_sinkLocal (s := s)).others k hk) i
    (allWindows.foldl sourceLinkLeft (clearSched (modLink Link.left s)))
  have ctx := sourceLinkLeft_source? ((source?_congr same).trans h)
  have ctx' : v.source? i = some c.linkLeft := (source?_congr (same'.trans step)).trans ctx
  rw [sinkLinkLeft_of_no_sink (sink?_of_source? ctx')] at step'
  exact (source?_congr step').trans ctx'

/-- Each sink context after the sweep (R138). -/
theorem leaveUp_sink? (h : s.sink? i = some k) : (leaveUp s).sink? i = some k.linkLeft := by
  obtain ⟨u, same, step⟩ := foldl_entry (fun s j k hk => (sourceLinkLeft_sourceLocal (s := s)).others k hk) i
    (clearSched (modLink Link.left s))
  obtain ⟨v, same', step'⟩ := foldl_entry (fun s j k hk => (sinkLinkLeft_sinkLocal (s := s)).others k hk) i
    (allWindows.foldl sourceLinkLeft (clearSched (modLink Link.left s)))
  have ctx : u.sink? i = some k := (sink?_congr same).trans h
  rw [sourceLinkLeft_of_no_source (source?_of_sink? ctx)] at step
  have ctx' : v.sink? i = some k := (sink?_congr (same'.trans step)).trans ctx
  exact (sink?_congr step').trans (sinkLinkLeft_sink? ctx')

/-! ### The end of the event -/

theorem leaveUp_left : (leaveUp s).link = s.link.left := leaveUp_streamsLeft.link

theorem leaveUp_sched : (leaveUp s).sched =
    { s.sched with ctl := Vector.replicate 16 none, ack := Vector.replicate 16 none } := leaveUp_streamsLeft.sched

theorem leaveUp_settings : (leaveUp s).settings = s.settings := leaveUp_streamsLeft.kept.settings

theorem leaveUp_accessRests (h : s.accessRests) : (leaveUp s).accessRests :=
  leaveUp_streamsLeft.rests (accessRests_of_eq (s := s) h rfl rfl)

theorem goDown_of_up (h : s.link.state = .up) : goDown s = leaveUp s := by
  unfold goDown
  rw [h]

theorem goDown_of_training (h : s.link.state = .training) : goDown s = leaveTraining s := by
  unfold goDown
  rw [h]

theorem goDown_of_down (h : s.link.state = .down) : goDown s = s := by
  unfold goDown
  rw [h]

theorem tryTrain_of_ready (h : s.link.state = .down) (he : s.settings.linkEnable = true) (hl : s.link.laneReady = true) :
    tryTrain s = enterTraining s := by
  unfold tryTrain
  rw [if_pos ⟨h, he, hl⟩]

theorem tryTrain_of_not (h : ¬ (s.link.state = .down ∧ s.settings.linkEnable = true ∧ s.link.laneReady = true)) :
    tryTrain s = s := by
  unfold tryTrain
  rw [if_neg h]

theorem conditions_of_up_iff (hw : t.windows = s.windows) (ha : t.acc = s.acc) (hs : t.seed = s.seed)
    (he : t.settings = s.settings) (hu : t.link.state = .up ↔ s.link.state = .up) : t.conditions = s.conditions := by
  have free := freeCount_congr (fun j => recordCount_congr (source?_of_windows hw j)) (congrArg AccessUnit.resv ha)
    (congrArg SeedEngine.resv hs)
  have held := isHeld_of_phase (congrArg AccessUnit.phase ha)
  simp only [State.conditions, he, free, held, ne_eq, hu]

/-- An event of a still part in which only the link changes, not into UP and not out of it, ends there. -/
theorem finish_of_link (h : s.still = true) (ht : t = { s with link := t.link })
    (hu : t.link.state = .up ↔ s.link.state = .up) : finish t = t := by
  have eq : ∀ l : Link, (l.state = .up ↔ s.link.state = .up) → finish { s with link := l } = { s with link := l } := by
    intro l hl
    rw [finish_of_still_windows (s := s) (t := { s with link := l }) h rfl (still_accessRests (s := s) h) rfl rfl rfl
      rfl]
    refine judgeIfOver_of_eq ?_
    obtain ⟨_, _, _, _, _, _, seen⟩ := still_iff.mp h
    exact seen.trans (conditions_of_up_iff (s := s) (t := { s with link := l }) rfl rfl rfl rfl hl).symm
  rw [ht]
  exact eq t.link hu

/-- The contexts of the sources after the link has left UP (R111). -/
theorem linkLeft_cases (c : SourceCtx) :
    (c.state = .seeding → c.linkLeft = { c with
        state := .suspended, prior := .seeding, retxTimer := none, queue := c.queue.map Record.toReady })
    ∧ (c.state = .live → c.linkLeft = { c with
        state := .suspended, prior := .live, retxTimer := none, queue := c.queue.map Record.toReady })
    ∧ (c.state = .opening → c.linkLeft = { c with state := .pending, ctlTimer := none, triesLeft := 0 })
    ∧ (c.state = .resuming → c.linkLeft = { c with state := .suspended, ctlTimer := none, triesLeft := 0 })
    ∧ (c.state = .closing → c.linkLeft = c.closedNow)
    ∧ (c.state = .closed ∨ c.state = .pending ∨ c.state = .suspended ∨ c.state = .fault → c.linkLeft = c) := by
  refine ⟨fun h => ?_, fun h => ?_, fun h => ?_, fun h => ?_, fun h => ?_, fun h => ?_⟩
  · simp only [SourceCtx.linkLeft, h, SourceCtx.suspendedIn]
  · simp only [SourceCtx.linkLeft, h, SourceCtx.suspendedIn]
  · simp only [SourceCtx.linkLeft, h]
  · simp only [SourceCtx.linkLeft, h]
  · simp only [SourceCtx.linkLeft, h]
  · rcases h with h | h | h | h <;> simp only [SourceCtx.linkLeft, h]

/-- The contexts of the sinks after the link has left UP (R138). -/
theorem sink_linkLeft_cases (k : SinkCtx) :
    (k.state = .seeding → k.linkLeft = { k with
        state := .suspended, prior := .seeding, held := k.held.filter (·.underOp), ackCount := 0, ackTimer := none,
        nakOutstanding := false })
    ∧ (k.state = .live → k.linkLeft = { k with
        state := .suspended, prior := .live, held := k.held.filter (·.underOp), ackCount := 0, ackTimer := none,
        nakOutstanding := false })
    ∧ (k.state = .closed ∨ k.state = .suspended → k.linkLeft = k) := by
  unfold SinkCtx.linkLeft
  refine ⟨fun h => ?_, fun h => ?_, fun h => ?_⟩
  · rw [h]
    rfl
  · rw [h]
    rfl
  · rcases h with h | h <;> rw [h]

theorem exec_laneReadyRise (h : s.calm = true) : exec .laneReadyRise s = .next (finish (laneRise s)) := by
  change Host.Outcome.next (outside laneRise s) = _
  rw [outside_of_calm h]

theorem exec_laneReadyFall (h : s.calm = true) : exec .laneReadyFall s = .next (finish (laneFall s)) := by
  change Host.Outcome.next (outside laneFall s) = _
  rw [outside_of_calm h]

theorem laneRise_of_high (h : s.resetLow = false) :
    laneRise s = tryTrain (modLink (fun l => { l with laneReady := true }) s) := by
  unfold laneRise
  rw [h, if_neg (by simp)]

/-- Settles O25: the rise goes through `tryTrain`, the fall through `goDown`, and out of UP every window is swept. -/
theorem laneReady : Obligations.LaneReady := by
  unfold Obligations.LaneReady
  refine ⟨fun s calm => ⟨fun down enabled => ?train, fun stays => ?note⟩,
    fun s calm => ⟨fun up => ?leave, fun training => ?stop, fun down => ?noteFall⟩⟩
  case train =>
    have trains := tryTrain_of_ready (s := modLink (fun l => { l with laneReady := true }) s) down enabled rfl
    rw [exec_laneReadyRise calm, laneRise_of_high (calm_resetLow calm), trains]
    refine congrArg Host.Outcome.next (finish_of_link (calm_still calm) rfl ?_)
    simp [enterTraining, modLink, down]
  case note =>
    rw [exec_laneReadyRise calm, laneRise_of_high (calm_resetLow calm), tryTrain_of_not]
    · exact congrArg Host.Outcome.next (finish_of_link (calm_still calm) rfl Iff.rfl)
    · rintro ⟨down, enabled, _⟩
      rcases stays with h | h
      · exact h down
      · change s.settings.linkEnable = true at enabled
        rw [h] at enabled
        cases enabled
  case leave =>
    have run := exec_laneReadyFall calm
    unfold laneFall at run
    rw [goDown_of_up (s := modLink (fun l => { l with laneReady := false }) s) up] at run
    generalize hw : modLink (fun l => { l with laneReady := false }) s = w at run
    have rests : (leaveUp w).accessRests := leaveUp_accessRests (by
      rw [← hw]
      exact accessRests_of_eq (still_accessRests (calm_still calm)) rfl rfl)
    have sources : ∀ i, w.source? i = s.source? i := fun i => by rw [← hw]; rfl
    have sinks : ∀ i, w.sink? i = s.sink? i := fun i => by rw [← hw]; rfl
    refine ⟨_, run, ?_, ?_, fun i c ctx => ?_, fun i c ctx => ?_⟩
    · rw [finish_link rests, leaveUp_left, ← hw]
      rfl
    · rw [finish_sched rests, leaveUp_sched, ← hw]
      rfl
    · rw [finish_source? rests, leaveUp_source? ((sources i).trans ctx)]
      obtain ⟨seeding, live, opening, resuming, closing, stays⟩ := linkLeft_cases c
      exact ⟨fun h => congrArg some (seeding h), fun h => congrArg some (live h), fun h => congrArg some (opening h),
        fun h => congrArg some (resuming h), fun h => ⟨_, congrArg some (closing h), rfl, rfl, rfl⟩,
        fun h => congrArg some (stays h)⟩
    · rw [finish_sink? rests, leaveUp_sink? ((sinks i).trans ctx)]
      obtain ⟨seeding, live, stays⟩ := sink_linkLeft_cases c
      exact ⟨fun h => congrArg some (seeding h), fun h => congrArg some (live h), fun h => congrArg some (stays h)⟩
  case stop =>
    rw [exec_laneReadyFall calm]
    unfold laneFall
    rw [goDown_of_training (s := modLink (fun l => { l with laneReady := false }) s) training]
    refine congrArg Host.Outcome.next (finish_of_link (calm_still calm) rfl ?_)
    simp [leaveTraining, modLink, training]
  case noteFall =>
    rw [exec_laneReadyFall calm]
    unfold laneFall
    rw [goDown_of_down (s := modLink (fun l => { l with laneReady := false }) s) down]
    exact congrArg Host.Outcome.next (finish_of_link (calm_still calm) rfl Iff.rfl)

end Sys2Proof.Machine
end

section
/-! SUPPORT. The settings and operations that act on the link at once, and the restart of the link: each is one event of a
still part (R59, R89, R137, R173, R175, R176). -/

namespace Sys2Proof.Machine

variable {s t u : State} {i j : WinIdx} {c : SourceCtx} {k : SinkCtx}

/-! ### Events that end with the judgement -/

/-- An event of a still part in which only the link, the settings and the port change ends with the judgement. -/
theorem finish_judged (h : s.still = true) (ht : t = { s with link := t.link, settings := t.settings, port := t.port }) :
    finish t = { t with ev := s.ev.judge t.conditions } := by
  have eq : ∀ (l : Link) (x : Settings) (p : Port), finish { s with link := l, settings := x, port := p } =
      { s with
        link := l, settings := x, port := p
        ev := s.ev.judge (State.conditions { s with link := l, settings := x, port := p }) } := by
    intro l x p
    rw [finish_of_still_windows (s := s) (t := { s with link := l, settings := x, port := p }) h rfl
      (still_accessRests (s := s) h) rfl rfl rfl rfl]
    obtain ⟨_, offers, ended, _⟩ := still_iff.mp h
    have settled : State.midEvent { s with link := l, settings := x, port := p } = false := by
      have stands : s.midEvent = false := by
        simp [State.midEvent, State.heldOfferDue, State.seedOfferDue, offers, ended]
      exact stands
    unfold judgeIfOver
    rw [settled, if_neg (by simp)]
    rfl
  have eq' := eq t.link t.settings t.port
  rw [← ht] at eq'
  rw [eq', ht]

/-- Of those, one that keeps the conditions leaves the event unit as it is. -/
theorem finish_unjudged (h : s.still = true) (ht : t = { s with link := t.link, settings := t.settings, port := t.port })
    (hc : t.conditions = s.conditions) : finish t = t := by
  obtain ⟨_, _, _, _, _, _, seen⟩ := still_iff.mp h
  have ev : t.ev = s.ev := by rw [ht]
  rw [finish_judged h ht, hc, judge_of_eq seen, ← ev]

theorem conditions_linkDown (s : State) : s.conditions &&& Cause.linkDown.bit =
    if s.settings.linkEnable = true ∧ s.link.state ≠ .up then Cause.linkDown.bit else 0#13 := by
  unfold State.conditions
  split <;> split <;> split <;> decide

theorem conditions_journalLow (s : State) : s.conditions &&& Cause.journalLow.bit =
    if s.freeCount < s.settings.journalLow then Cause.journalLow.bit else 0#13 := by
  unfold State.conditions
  split <;> split <;> split <;> decide

/-- A condition seen to become true at the end of an event sets its latch (R156). -/
theorem caused_of_judge {e : EventUnit} {now : BitVec 13} {x : Cause} (ht : t.ev = e.judge now)
    (hc : e.cond &&& x.bit = 0#13) (hn : now &&& x.bit = x.bit) : t.caused x = true :=
  caused_iff.mpr (by rw [ht]; exact judge_pending_of_begins hc hn)

/-! ### The link's restart -/

theorem dropLink_of_up (h : s.link.state = .up) (he : s.settings.linkEnable = true) (hl : s.link.laneReady = true) :
    dropLink s = enterTraining (leaveUp s) := by
  unfold dropLink
  rw [goDown_of_up h]
  exact tryTrain_of_ready (by rw [leaveUp_left]; rfl) (by rw [leaveUp_settings]; exact he) (by rw [leaveUp_left]; exact hl)

/-- The link that has left UP and trains again (R82, R88). -/
theorem dropLink_link (h : s.link.state = .up) (he : s.settings.linkEnable = true) (hl : s.link.laneReady = true) :
    (dropLink s).link = { s.link with
      state := .training, heard := false, helloDue := true, helloTimer := some s.settings.helloInterval,
      silenceTimer := none, keepaliveTimer := none, keepaliveDue := false } := by
  rw [dropLink_of_up h he hl]
  change ({ (leaveUp s).link with
    state := .training, heard := false, helloDue := true
    helloTimer := some (leaveUp s).settings.helloInterval } : Link) = _
  rw [leaveUp_left, leaveUp_settings]
  rfl

theorem tryTrain_frame (s : State) : tryTrain s = { s with link := (tryTrain s).link } := by
  unfold tryTrain
  split <;> rfl

theorem tryTrain_sched (s : State) : (tryTrain s).sched = s.sched := by rw [tryTrain_frame]

theorem tryTrain_accessRests (h : s.accessRests) : (tryTrain s).accessRests :=
  accessRests_of_eq h (by rw [tryTrain_frame]) (by rw [tryTrain_frame])

theorem dropLink_sched (h : s.link.state = .up) : (dropLink s).sched =
    { s.sched with ctl := Vector.replicate 16 none, ack := Vector.replicate 16 none } := by
  unfold dropLink
  rw [tryTrain_sched, goDown_of_up h, leaveUp_sched]

theorem dropLink_settings (s : State) : (dropLink s).settings = s.settings := dropLink_kept.settings

theorem dropLink_accessRests (h : s.link.state = .up) (hr : s.accessRests) : (dropLink s).accessRests := by
  unfold dropLink
  rw [goDown_of_up h]
  exact tryTrain_accessRests (leaveUp_accessRests hr)

theorem exec_linkRestart {n : Nat} (h : s.quiet = true) (hn : 0 < n) :
    exec (.linkRestart n) s = .next (finish { restartLink s with port := donePort 1 n [] .done }) := by
  change Host.Outcome.next (manage (restartTransaction n) s) = _
  rw [manage_of_quiet h]
  unfold restartTransaction
  rw [transact_executes hn]
  rfl

theorem exec_deviceReset {n : Nat} (h : s.quiet = true) (hn : 0 < n) : exec (.deviceReset n) s =
    .next { s with port := { donePort 1 n [] .done with
      txn := some { count := n, command := 0x3C#8 }, resetDue := true } } := by
  change Host.Outcome.next (manage (resetTransaction n) s) = _
  refine congrArg Host.Outcome.next (manage_done h ?_)
  unfold resetTransaction
  dsimp only
  rw [transact_executes hn, if_pos hn]
  rfl

/-- Settles O53: the restart by the link's state, and the mark of the soft reset. -/
theorem linkRestartAndDeviceReset : Obligations.LinkRestartAndDeviceReset := by
  unfold Obligations.LinkRestartAndDeviceReset
  intro s n quiet counted
  have still := quiet_still quiet
  refine ⟨fun down => ?_, fun enabled ready => ⟨fun training => ?_, fun up => ?_⟩, exec_deviceReset quiet counted⟩
  · rw [exec_linkRestart quiet counted]
    unfold restartLink
    rw [if_pos down]
    exact congrArg Host.Outcome.next (finish_of_port_only still _)
  · rw [exec_linkRestart quiet counted]
    unfold restartLink dropLink
    rw [if_neg (by simp [training]), goDown_of_training training,
      tryTrain_of_ready (s := leaveTraining s) rfl enabled ready]
    refine congrArg Host.Outcome.next ((finish_unjudged still rfl ?_).trans ?_)
    · exact conditions_of_up_iff rfl rfl rfl rfl (by simp [enterTraining, modLink, training])
    · simp only [enterTraining, leaveTraining, modLink, training]
  · have run := exec_linkRestart quiet counted
    unfold restartLink at run
    rw [if_neg (by simp [up])] at run
    have link := dropLink_link up enabled ready
    have sched := dropLink_sched up
    have settings := dropLink_settings s
    have rests := dropLink_accessRests up (still_accessRests still)
    generalize dropLink s = w at run link sched settings rests
    have rests' : State.accessRests { w with port := donePort 1 n [] .done } := accessRests_of_eq rests rfl rfl
    exact ⟨_, run, finish_port rests', (finish_link rests').trans link, (finish_sched rests').trans sched,
      (finish_settings rests').trans settings⟩

/-! ### The settings that act at once -/

theorem exec_setting {x : BitVec 16} {v : Word} {n : Nat} {y : Setting} (h : s.quiet = true) (hn : 6 < n)
    (hx : itemOf x = some (.setting y)) : Host.Outcome.next (manage (writeTransaction x v n) s) =
      (Host.Outcome.next (finish { (writeSetting y v s).1 with port := donePort 7 n [] (writeSetting y v s).2 }) :
        Host.Outcome State Fault Refusal) := by
  rw [manage_of_quiet h, writeTransaction_executes hn, writeItem_setting hx]

theorem writeSetting_changed {y : Setting} {v : Word} (h : s.settings.accepts y v.toNat = true)
    (hv : s.settings.get y ≠ v.toNat) :
    writeSetting y v s = (settingChanged y { s with settings := s.settings.put y v.toNat }, .done) := by
  simp [writeSetting, h, hv]

/-! ### ACK_EVERY -/

/-- No other enabled window carries the stream of window `i`. -/
def State.apart (s : State) (i : WinIdx) : Prop :=
  ∀ j, j ≠ i → (s.entry j).enabled = true → (s.entry j).stream ≠ (s.entry i).stream

theorem apart_of_windowsValid (h : s.windowsValid = true) (hi : (s.entry i).enabled = true) : s.apart i := by
  intro j hj enabled same
  simp only [State.windowsValid, Bool.and_eq_true] at h
  have clear := List.all_eq_true.mp (List.all_eq_true.mp h.2 j (mem_allWindows j)) i (mem_allWindows i)
  simp [hj, enabled, hi, Entry.clashes, same] at clear

theorem Kept.apart (h : Kept s t) (hs : s.apart i) : t.apart i := by
  intro j hj enabled
  obtain ⟨_, _, stream, _, _, _, _, enables⟩ := h.config j
  obtain ⟨_, _, stream', _⟩ := h.config i
  rw [stream, stream']
  exact hs j hj (enables ▸ enabled)

/-- What an operation on another window's stream spares of window `i`. -/
structure Spared (i : WinIdx) (s t : State) : Prop where
  entry : t.entry i = s.entry i
  kept : Kept s t
  link : t.link = s.link
  slots : s.apart i → t.ctlSlot (s.entry i).stream = s.ctlSlot (s.entry i).stream
    ∧ t.ackFlag (s.entry i).stream = s.ackFlag (s.entry i).stream

theorem Spared.refl (i : WinIdx) (s : State) : Spared i s s := ⟨rfl, Kept.refl s, rfl, fun _ => ⟨rfl, rfl⟩⟩

theorem Spared.trans (h : Spared i s t) (g : Spared i t u) : Spared i s u :=
  ⟨g.entry.trans h.entry, h.kept.trans g.kept, g.link.trans h.link, fun a => by
    obtain ⟨ctl, ack⟩ := h.slots a
    obtain ⟨ctl', ack'⟩ := g.slots (h.kept.apart a)
    rw [h.entry] at ctl' ack'
    exact ⟨ctl'.trans ctl, ack'.trans ack⟩⟩

theorem StreamLocal.spared (h : StreamLocal j s t) (hj : j ≠ i) (he : (s.entry j).enabled = true)
    (hl : t.link = s.link) : Spared i s t :=
  ⟨h.others i (Ne.symm hj), h.kept, hl, fun a => h.slots _ (Ne.symm (a j hj he))⟩

theorem enabled_of_sink (h : s.sink? i = some k) : (s.entry i).enabled = true := by
  rw [sink?_eq_some] at h
  simp [Entry.enabled, h]

theorem enabled_of_source (h : s.source? i = some c) : (s.entry i).enabled = true := by
  rw [source?_eq_some] at h
  simp [Entry.enabled, h]

theorem clampAck_of_no_sink (h : s.sink? i = none) : clampAck s i = s := by
  unfold clampAck
  rw [h]

theorem clampAck_of_sink (h : s.sink? i = some k) : clampAck s i =
    if s.settings.ackEvery < k.ackCount then
      if k.state = .seeding ∨ k.state = .live then
        flagAck (s.entry i).stream k (s.sinked i { k with ackCount := s.settings.ackEvery } s.link s.sched s.ev)
      else s.sinked i { k with ackCount := s.settings.ackEvery } s.link s.sched s.ev
    else s := by
  unfold clampAck
  rw [h]
  dsimp only
  rw [modSink_sinked _ h, sinked_streamOf]

theorem clampAck_sink? (h : s.sink? i = some k) :
    (clampAck s i).sink? i = some { k with ackCount := min k.ackCount s.settings.ackEvery } := by
  have kept : ∀ (id : StreamId) (t : State), (flagAck id k t).sink? i = t.sink? i := fun id t => by
    rw [flagAck_sched_only]
    rfl
  rw [clampAck_of_sink h]
  by_cases above : s.settings.ackEvery < k.ackCount
  · rw [if_pos above, Nat.min_eq_right (Nat.le_of_lt above)]
    split
    · rw [kept, sinked_sink?, if_pos rfl]
    · rw [sinked_sink?, if_pos rfl]
  · rw [if_neg above, Nat.min_eq_left (Nat.le_of_not_lt above)]
    exact h

theorem clampAck_flag (h : s.sink? i = some k) (hu : s.link.state = .up) (ha : s.settings.ackEvery < k.ackCount)
    (hs : k.state = .seeding ∨ k.state = .live) (hf : s.ackFlag (s.entry i).stream = none) :
    (clampAck s i).ackFlag (s.entry i).stream =
      some { isNak := false, seq := k.expected - 1#16, epoch := k.epoch } := by
  rw [clampAck_of_sink h, if_pos ha, if_pos hs]
  refine flagAck_ackFlag (s := s.sinked i _ s.link s.sched s.ev) hu fun g hg => ?_
  have none : s.ackFlag (s.entry i).stream = some g := hg
  rw [hf] at none
  cases none

theorem clampAck_frame (i : WinIdx) (s : State) :
    clampAck s i = { s with windows := (clampAck s i).windows, sched := (clampAck s i).sched } := by
  cases h : s.sink? i with
  | none => rw [clampAck_of_no_sink h]
  | some k =>
      rw [clampAck_of_sink h]
      split
      · split
        · rw [flagAck_sched_only]
          rfl
        · rfl
      · rfl

theorem clampAck_spared (hj : j ≠ i) : Spared i s (clampAck s j) := by
  cases h : s.sink? j with
  | none =>
      rw [clampAck_of_no_sink h]
      exact Spared.refl i s
  | some k =>
      exact (clampAck_sinkLocal j).toStreamLocal.spared hj (enabled_of_sink h) (by rw [clampAck_frame])

end Sys2Proof.Machine
end

section
/-! SUPPORT. The settings that act at once, the expiries of the link's timers, and the tick (R59, R82, R86 to R89, R137,
R172, R173). -/

namespace Sys2Proof.Machine

variable {s t u : State} {i j : WinIdx} {c : SourceCtx} {k : SinkCtx}

theorem itemOf_linkEnable : itemOf 0x001B#16 = some (.setting .linkEnable) := by decide
theorem itemOf_journalLow : itemOf 0x001A#16 = some (.setting .journalLow) := by decide
theorem itemOf_ackEvery : itemOf 0x0015#16 = some (.setting .ackEvery) := by decide

/-- A write of LINK_ENABLE to the other value (R89). -/
theorem exec_linkEnable_on {n : Nat} (h : s.quiet = true) (hn : 6 < n) (he : s.settings.linkEnable = false) :
    exec (.linkEnableWrite 1#32 n) s = .next (finish { tryTrain { s with settings := { s.settings with linkEnable := true } }
      with port := donePort 7 n [] .done }) := by
  refine (exec_setting h hn itemOf_linkEnable).trans ?_
  rw [writeSetting_changed (by simp [Settings.accepts, Setting.range]) (by simp [Settings.get, he])]
  rfl

theorem exec_linkEnable_off {n : Nat} (h : s.quiet = true) (hn : 6 < n) (he : s.settings.linkEnable = true) :
    exec (.linkEnableWrite 0#32 n) s = .next (finish { goDown { s with settings := { s.settings with linkEnable := false } }
      with port := donePort 7 n [] .done }) := by
  refine (exec_setting h hn itemOf_linkEnable).trans ?_
  rw [writeSetting_changed (by simp [Settings.accepts, Setting.range]) (by simp [Settings.get, he])]
  rfl

theorem accepts_journalLow {v : Word} (h : v.toNat ≤ 255) : s.settings.accepts .journalLow v.toNat = true := by
  simp [Settings.accepts, Setting.range, h]

theorem writeSetting_journalLow {v : Word} (h : v.toNat ≤ 255) : writeSetting .journalLow v s =
    ({ s with settings := { s.settings with journalLow := v.toNat } }, .done) := by
  by_cases same : s.settings.get .journalLow = v.toNat
  · have same' : s.settings.journalLow = v.toNat := same
    rw [writeSetting_present (accepts_journalLow h) same, ← same']
  · rw [writeSetting_changed (accepts_journalLow h) same]
    rfl

theorem exec_journalLow {v : Word} {n : Nat} (h : s.quiet = true) (hn : 6 < n) (hv : v.toNat ≤ 255) :
    exec (.journalLowWrite v n) s = .next (finish { s with
      settings := { s.settings with journalLow := v.toNat }, port := donePort 7 n [] .done }) := by
  refine (exec_setting h hn itemOf_journalLow).trans ?_
  rw [writeSetting_journalLow hv]

theorem exec_ackEvery {v : Word} {n : Nat} (h : s.quiet = true) (hn : 6 < n) (hl : 1 ≤ v.toNat) (hv : v.toNat ≤ 16)
    (hc : v.toNat ≠ s.settings.ackEvery) : exec (.ackEveryWrite v n) s = .next (finish
      { allWindows.foldl clampAck { s with settings := { s.settings with ackEvery := v.toNat } } with
        port := donePort 7 n [] .done }) := by
  refine (exec_setting h hn itemOf_ackEvery).trans ?_
  rw [writeSetting_changed (by simp [Settings.accepts, Setting.range, hl, hv]) (by simpa [Settings.get] using hc.symm)]
  rfl

theorem clampAck_sweep_frame (l : List WinIdx) (s : State) : l.foldl clampAck s =
    { s with windows := (l.foldl clampAck s).windows, sched := (l.foldl clampAck s).sched } :=
  foldl_all (R := fun s t => t = { s with windows := t.windows, sched := t.sched }) (fun _ => rfl)
    (fun s t u h k => by rw [k, h]) (fun s j => clampAck_frame j s) l s

/-- Settles O46: each setting's owner acts in the event of the write, and the judgement follows. -/
theorem settingsThatActAtOnce : Obligations.SettingsThatActAtOnce := by
  unfold Obligations.SettingsThatActAtOnce
  intro s n quiet long
  have still := quiet_still quiet
  obtain ⟨_, _, _, _, _, _, seen⟩ := still_iff.mp still
  refine ⟨fun off down => ?enable, fun enabled training => ?disableInTraining, fun enabled up => ?disableInUp,
    fun v low => ?journalLow, fun v least most other => ?ackEvery⟩
  case enable =>
    generalize hl : (if s.link.laneReady then
      { s.link with state := .training, heard := false, helloDue := true, helloTimer := some s.settings.helloInterval }
      else s.link : Link) = l
    have notUp : l.state ≠ .up := by
      rw [← hl]
      split
      · simp
      · simp [down]
    have trained : tryTrain { s with settings := { s.settings with linkEnable := true } } =
        { s with settings := { s.settings with linkEnable := true }, link := l } := by
      rw [← hl]
      by_cases ready : s.link.laneReady = true
      · rw [if_pos ready]
        exact tryTrain_of_ready (s := { s with settings := { s.settings with linkEnable := true } }) down rfl ready
      · rw [if_neg ready]
        exact tryTrain_of_not fun h => ready h.2.2
    have run := exec_linkEnable_on quiet long off
    rw [trained] at run
    generalize hw : ({ s with
      settings := { s.settings with linkEnable := true }, link := l, port := donePort 7 n [] .done } : State) = w at run
    have begins : w.conditions &&& Cause.linkDown.bit = Cause.linkDown.bit := by
      rw [conditions_linkDown, if_pos]
      rw [← hw]
      exact ⟨rfl, notUp⟩
    rw [finish_judged still (by rw [← hw])] at run
    exact ⟨_, run, by rw [← hw], begins, fun clear => caused_of_judge rfl clear begins⟩
  case disableInTraining =>
    have run := exec_linkEnable_off quiet long enabled
    rw [goDown_of_training (s := { s with settings := { s.settings with linkEnable := false } }) training] at run
    generalize hw : ({ leaveTraining { s with settings := { s.settings with linkEnable := false } } with
      port := donePort 7 n [] .done } : State) = w at run
    rw [finish_judged still (by rw [← hw]; rfl)] at run
    refine ⟨_, run, by rw [← hw]; rfl, ?_⟩
    refine (conditions_linkDown w).trans (if_neg ?_)
    rw [← hw]
    exact fun h => Bool.false_ne_true h.1
  case disableInUp =>
    have run := exec_linkEnable_off quiet long enabled
    rw [goDown_of_up (s := { s with settings := { s.settings with linkEnable := false } }) up] at run
    generalize hw : ({ s with settings := { s.settings with linkEnable := false } } : State) = w at run
    have rests : w.accessRests := accessRests_of_eq (still_accessRests still) (by rw [← hw]) (by rw [← hw])
    have link : (leaveUp w).link = s.link.left := leaveUp_left.trans (by rw [← hw])
    have sched : (leaveUp w).sched = { s.sched with
        ctl := Vector.replicate 16 none, ack := Vector.replicate 16 none } := leaveUp_sched.trans (by rw [← hw])
    have settings : (leaveUp w).settings = { s.settings with linkEnable := false } :=
      leaveUp_settings.trans (by rw [← hw])
    have left := leaveUp_accessRests rests
    generalize leaveUp w = z at run link sched settings left
    have restsZ : State.accessRests { z with port := donePort 7 n [] .done } := accessRests_of_eq left rfl rfl
    exact ⟨_, run, (finish_settings restsZ).trans settings, finish_port restsZ, (finish_link restsZ).trans link,
      (finish_sched restsZ).trans sched⟩
  case journalLow =>
    have run := exec_journalLow quiet long low
    generalize hw : ({ s with
      settings := { s.settings with journalLow := v.toNat }, port := donePort 7 n [] .done } : State) = w at run
    have now : w.conditions &&& Cause.journalLow.bit =
        if s.freeCount < v.toNat then Cause.journalLow.bit else 0#13 := by
      rw [conditions_journalLow, ← hw]
      rfl
    rw [finish_judged still (by rw [← hw])] at run
    refine ⟨_, run, by rw [← hw], now, fun clear below => caused_of_judge rfl clear ?_⟩
    rw [now, if_pos below]
  case ackEvery =>
    have run := exec_ackEvery quiet long least most other
    generalize hw : ({ s with settings := { s.settings with ackEvery := v.toNat } } : State) = w at run
    have every : w.settings = { s.settings with ackEvery := v.toNat } := by rw [← hw]
    have entries : ∀ j, w.entry j = s.entry j := fun j => by rw [← hw]; rfl
    have link : w.link = s.link := by rw [← hw]
    have flags : ∀ id, w.ackFlag id = s.ackFlag id := fun id => by rw [← hw]; rfl
    have rests : w.accessRests := accessRests_of_eq (still_accessRests still) (by rw [← hw]) (by rw [← hw])
    have frame := clampAck_sweep_frame allWindows w
    have sweep : ∀ i, ∃ u, Spared i w u ∧ Spared i (clampAck u i) (allWindows.foldl clampAck w) := fun i =>
      foldl_at (fun s => Spared.refl i s) (fun _ _ _ => Spared.trans) (fun s j hj => clampAck_spared hj) allWindows_nodup
        (mem_allWindows i) w
    generalize allWindows.foldl clampAck w = z at run frame sweep
    have restsZ : State.accessRests { z with port := donePort 7 n [] .done } :=
      accessRests_of_eq rests (by rw [frame]) (by rw [frame])
    refine ⟨_, run, ?_, finish_port restsZ, ?_, fun i => ?_⟩
    · refine (finish_settings restsZ).trans ?_
      rw [frame]
      exact every
    · refine (finish_link restsZ).trans ?_
      rw [frame]
      exact link
    · obtain ⟨u, before, after⟩ := sweep i
      have entry : u.entry i = s.entry i := before.entry.trans (entries i)
      have set : u.settings = { s.settings with ackEvery := v.toNat } := before.kept.settings.trans every
      have ends : (finish { z with port := donePort 7 n [] .done }).entry i = (clampAck u i).entry i :=
        (finish_entry restsZ i).trans after.entry
      refine ⟨fun noSink => ?_, fun c ctx => ⟨?_, fun valid up above seeding empty => ?_⟩⟩
      · rw [ends, clampAck_of_no_sink ((sink?_congr entry).trans (Option.isNone_iff_eq_none.mp noSink)), entry]
      · rw [sink?_congr ends, clampAck_sink? ((sink?_congr entry).trans ctx), set]
      · have apart : w.apart i := by
          intro j hj
          rw [entries j, entries i]
          exact apart_of_windowsValid valid (enabled_of_sink ctx) j hj
        have apart' : (clampAck u i).apart i := ((before.kept.trans (clampAck_sinkLocal i).toStreamLocal.kept).apart apart)
        have stream : ((clampAck u i).entry i).stream = (s.entry i).stream :=
          (clampAck_sinkLocal i).toStreamLocal.config.2.2.1.trans (congrArg Entry.stream entry)
        have kept := (after.slots apart').2
        rw [stream] at kept
        have empty' : u.ackFlag (u.entry i).stream = none := by
          have kept' := (before.slots apart).2
          rw [entries i, flags] at kept'
          rw [entry, kept']
          exact empty
        have flagged := clampAck_flag (s := u) ((sink?_congr entry).trans ctx) (by rw [before.link, link]; exact up)
          (by rw [set]; exact above) seeding empty'
        rw [entry] at flagged
        exact (finish_ackFlag restsZ _).trans (kept.trans flagged)

end Sys2Proof.Machine
end

section
/-! SUPPORT. The expiries of the link's timers, and the tick (R82, R86, R87, R88, R172). -/

namespace Sys2Proof.Machine

variable {s t u : State} {i j : WinIdx} {c : SourceCtx} {k : SinkCtx}

/-! ### A sweep that rewrites every entry -/

/-- Every entry of the window table rewritten. -/
def State.mapEntries (s : State) (g : Entry → Entry) : State :=
  allWindows.foldl (fun s i => s.setEntry i (g (s.entry i))) s

theorem mapEntries_entry (g : Entry → Entry) (i : WinIdx) : (s.mapEntries g).entry i = g (s.entry i) := by
  obtain ⟨u, same, step⟩ := foldl_entry (f := fun s i => s.setEntry i (g (s.entry i)))
    (fun s j k hk => setEntry_entry_ne s j _ hk) i s
  refine step.trans ?_
  rw [setEntry_entry_same, same]

theorem mapEntries_frame (g : Entry → Entry) (s : State) :
    s.mapEntries g = { s with windows := (s.mapEntries g).windows } :=
  foldl_all (R := fun s t => t = { s with windows := t.windows }) (fun _ => rfl)
    (fun s t u h k => by rw [k, h]) (fun _ _ => rfl) allWindows s

/-! ### The tick -/

theorem tickTimer_eq (x : Option Nat) : tickTimer x = x.map (· - 1) := by
  cases x with
  | none => rfl
  | some n => cases n <;> rfl

/-- An entry whose timers have counted down by one tick. -/
def Entry.ticked (e : Entry) : Entry :=
  { e with
    role := match e.role with
      | .off => .off
      | .source c => .source { c with retxTimer := tickTimer c.retxTimer, ctlTimer := tickTimer c.ctlTimer }
      | .sink c => .sink { c with ackTimer := tickTimer c.ackTimer } }

theorem ticked_of_off {e : Entry} (h : e.role = .off) : e.ticked = e := by
  cases e
  simp only at h
  subst h
  rfl

theorem ticked_of_source {e : Entry} (h : e.role = .source c) : e.ticked = { e with
    role := .source { c with retxTimer := c.retxTimer.map (· - 1), ctlTimer := c.ctlTimer.map (· - 1) } } := by
  simp only [Entry.ticked, h, tickTimer_eq]

theorem ticked_of_sink {e : Entry} (h : e.role = .sink k) : e.ticked = { e with
    role := .sink { k with ackTimer := k.ackTimer.map (· - 1) } } := by
  simp only [Entry.ticked, h, tickTimer_eq]

theorem tickWindow_eq (s : State) (i : WinIdx) : tickWindow s i = s.setEntry i (s.entry i).ticked := by
  unfold tickWindow
  cases h : (s.entry i).role with
  | off =>
      rw [ticked_of_off h]
      exact (setEntry_self s i).symm
  | source c => simp only [Entry.ticked, h, State.setRole]
  | sink k => simp only [Entry.ticked, h, State.setRole]

/-- The part of a tick outside the windows. -/
def State.tickedTimers (s : State) : State :=
  { s with
    acc := { s.acc with holdTimer := s.acc.holdTimer.map (· - 1) }
    link := { s.link with
      helloTimer := s.link.helloTimer.map (· - 1), silenceTimer := s.link.silenceTimer.map (· - 1)
      keepaliveTimer := s.link.keepaliveTimer.map (· - 1) }
    tickLength := s.settings.tickDivisor }

theorem tickTimers_eq (s : State) : tickTimers s = s.tickedTimers.mapEntries Entry.ticked := by
  have step : tickWindow = fun s i => s.setEntry i (s.entry i).ticked := funext fun s => funext fun i => tickWindow_eq s i
  unfold tickTimers State.mapEntries State.tickedTimers
  simp only [step, tickTimer_eq]

/-- Every entry after a tick, and all else as `tickedTimers` says. -/
theorem tickTimers_entry (s : State) (i : WinIdx) : (tickTimers s).entry i = (s.entry i).ticked := by
  rw [tickTimers_eq, mapEntries_entry]
  rfl

theorem tickTimers_frame (s : State) : tickTimers s = { s.tickedTimers with windows := (tickTimers s).windows } := by
  rw [tickTimers_eq]
  exact mapEntries_frame _ _

theorem ticked_enabled (e : Entry) : e.ticked.enabled = e.enabled := by
  cases h : e.role <;> simp [Entry.ticked, Entry.enabled, h]

theorem tickTimers_lookup (id : StreamId) : (tickTimers s).lookup id = s.lookup id :=
  lookup_congr (fun j => by rw [tickTimers_entry]; exact ⟨ticked_enabled _, rfl⟩) id

theorem tickTimers_recordCount (i : WinIdx) : (tickTimers s).recordCount i = s.recordCount i := by
  have entry := tickTimers_entry s i
  unfold State.recordCount State.source?
  rw [entry]
  cases h : (s.entry i).role <;> simp [Entry.ticked, h]

/-- A tick changes no head of a receive window (R130). -/
theorem tickTimers_applyHead (id : StreamId) : (tickTimers s).applyHead id = s.applyHead id := by
  unfold State.applyHead
  rw [tickTimers_lookup]
  cases s.lookup id with
  | none => rfl
  | some i =>
      have entry := tickTimers_entry s i
      dsimp only
      unfold State.sink?
      rw [entry]
      cases h : (s.entry i).role with
      | off => simp only [Entry.ticked, h]
      | source c => simp only [Entry.ticked, h]
      | sink k =>
          have heads : SinkCtx.memoryHead { k with ackTimer := tickTimer k.ackTimer } = k.memoryHead :=
            memoryHead_congr rfl rfl rfl
          simp only [Entry.ticked, h, heads]

theorem takeDue_of_not {due : Bool} (h : due = false) (f : State → State) : takeDue due f s = s := by
  unfold takeDue
  rw [h, if_neg (by simp)]

/-- With no expiry due a tick finds none to take first. -/
theorem takeAllDue_of_none_due (h : s.expiryDue = false) : takeAllDue s = s := by
  simp only [State.expiryDue, Bool.or_eq_false_iff] at h
  obtain ⟨⟨⟨⟨hold, hello⟩, silence⟩, keepalive⟩, streams⟩ := h
  have window : ∀ i, takeDueAt s i = s := by
    intro i
    have none := List.any_eq_false.mp streams i (mem_allWindows i)
    simp only [Bool.or_eq_true, not_or, Bool.not_eq_true] at none
    obtain ⟨source, sink⟩ := none
    have retx : ((s.source? i).any fun c => c.retxTimer == some 0) = false := by
      cases hc : s.source? i with
      | none => rfl
      | some c =>
          rw [hc, Option.any_some, Bool.or_eq_false_iff] at source
          exact source.1
    have ctl : ((s.source? i).any fun c => c.ctlTimer == some 0) = false := by
      cases hc : s.source? i with
      | none => rfl
      | some c =>
          rw [hc, Option.any_some, Bool.or_eq_false_iff] at source
          exact source.2
    unfold takeDueAt
    dsimp only
    rw [takeDue_of_not retx, takeDue_of_not ctl, takeDue_of_not sink]
  have sweep : ∀ l : List WinIdx, l.foldl takeDueAt s = s := by
    intro l
    induction l with
    | nil => rfl
    | cons i l ih => rw [List.foldl_cons, window, ih]
  unfold takeAllDue
  dsimp only
  rw [takeDue_of_not hold, takeDue_of_not hello, takeDue_of_not silence, takeDue_of_not keepalive]
  exact sweep _

/-- A tick ends no event with another condition (R172). -/
theorem finish_tickTimers (h : s.still = true) : finish (tickTimers s) = tickTimers s := by
  obtain ⟨_, _, _, _, _, _, seen⟩ := still_iff.mp h
  have frame := tickTimers_frame s
  have heads : ∀ id, (tickTimers s).applyHead id = s.applyHead id := tickTimers_applyHead
  have counts : ∀ j, (tickTimers s).recordCount j = s.recordCount j := tickTimers_recordCount
  generalize tickTimers s = t at frame heads counts ⊢
  have rests : t.accessRests := by
    rcases still_accessRests h with busy | empty
    · exact .inl (by rw [frame]; exact busy)
    · exact .inr (by rw [frame]; exact empty)
  rw [finish_of_still_heads h (by rw [frame]; rfl) rests heads (by rw [frame]; rfl) (by rw [frame]; rfl)
    (by rw [frame]; rfl)]
  refine judgeIfOver_of_eq ?_
  have ev : t.ev = s.ev := by rw [frame]; rfl
  rw [ev, seen]
  refine (conditions_congr (by rw [frame]; rfl) (by rw [frame]; rfl) (by rw [frame]; rfl) ?_ ?_).symm
  · exact freeCount_congr counts (by rw [frame]; rfl) (by rw [frame]; rfl)
  · exact isHeld_of_phase (by rw [frame]; rfl)

/-! ### The link's timers -/

theorem exec_helloTimer (h : s.calm = true) : exec .helloTimerExpiry s = .next (finish (expireHello s)) := by
  change Host.Outcome.next (outside expireHello s) = _
  rw [outside_of_calm h]

theorem exec_keepaliveTimer (h : s.calm = true) : exec .keepaliveTimerExpiry s = .next (finish (expireKeepalive s)) := by
  change Host.Outcome.next (outside expireKeepalive s) = _
  rw [outside_of_calm h]

theorem exec_silenceTimer (h : s.calm = true) : exec .silenceTimerExpiry s = .next (finish (expireSilence s)) := by
  change Host.Outcome.next (outside expireSilence s) = _
  rw [outside_of_calm h]

theorem exec_tick (h : s.calm = true) (hd : s.expiryDue = false) : exec .tick s = .next (tickTimers s) := by
  change Host.Outcome.next (if s.resetLow then s else outside (fun s => tickTimers (takeAllDue s)) s) = _
  rw [calm_resetLow h, if_neg (by simp), outside_of_calm h]
  rw [takeAllDue_of_none_due hd, finish_tickTimers (calm_still h)]

/-- LINK_DOWN has its latch at the end of an event in which the link of an enabled part has left UP (R154, R157). -/
theorem finish_linkDown (hr : s.resetLow = false) (ha : s.accessRests) (hc : s.ev.cond &&& Cause.linkDown.bit = 0#13)
    (he : s.settings.linkEnable = true) (hl : s.link.state ≠ .up) (hm : (finish s).midEvent = false) :
    (finish s).caused .linkDown = true := by
  have link := finish_link ha
  have settings := finish_settings ha
  have frame := finish_frame ha
  have taken := takePresented_of_busy ha
  have ev : (keepOffers (applyChoose (seedTake (takePresented s)))).ev = s.ev := by
    rw [keepOffers_frame, applyChoose_frame, seedTake_frame, taken]
  unfold finish at hm link settings ⊢
  rw [hr, if_neg (by simp)] at hm link settings ⊢
  generalize keepOffers (applyChoose (seedTake (takePresented s))) = u at hm link settings ev ⊢
  unfold judgeIfOver at hm link settings ⊢
  by_cases mid : u.midEvent = true
  · rw [if_pos mid] at hm
    rw [mid] at hm
    cases hm
  · rw [if_neg mid] at link settings ⊢
    refine caused_of_judge (e := u.ev) (now := u.conditions) rfl (by rw [ev]; exact hc) ?_
    have link' : u.link = s.link := link
    have settings' : u.settings = s.settings := settings
    rw [conditions_linkDown, link', settings', if_pos ⟨he, hl⟩]

theorem leaveUp_ev_cond : (leaveUp s).ev.cond = s.ev.cond := leaveUp_streamsLeft.grows.cond

theorem tryTrain_ev (s : State) : (tryTrain s).ev = s.ev := by rw [tryTrain_frame]

theorem dropLink_ev_cond (h : s.link.state = .up) : (dropLink s).ev.cond = s.ev.cond := by
  unfold dropLink
  rw [tryTrain_ev, goDown_of_up h, leaveUp_ev_cond]

/-- Settles O41: each expiry by the timer's own rule, and the tick as one rewriting of the table and the timers. -/
theorem linkTimersAndTick : Obligations.LinkTimersAndTick := by
  unfold Obligations.LinkTimersAndTick
  refine ⟨fun s calm => ⟨fun due => ?hello, fun due => ?keepalive, fun due up enabled ready => ?silence⟩,
    fun s calm none => ?tick⟩
  case hello =>
    rw [exec_helloTimer calm]
    unfold expireHello
    rw [if_pos due]
    exact congrArg Host.Outcome.next (finish_of_link (calm_still calm) rfl Iff.rfl)
  case keepalive =>
    rw [exec_keepaliveTimer calm]
    unfold expireKeepalive
    rw [if_pos due]
    exact congrArg Host.Outcome.next (finish_of_link (calm_still calm) rfl Iff.rfl)
  case silence =>
    have run := exec_silenceTimer calm
    unfold expireSilence at run
    rw [if_pos due] at run
    have link := dropLink_link up enabled ready
    have sched := dropLink_sched up
    have settings := dropLink_settings s
    have rests := dropLink_accessRests up (still_accessRests (calm_still calm))
    have low := (dropLink_kept (s := s)).resetLow
    have cond := dropLink_ev_cond up
    generalize dropLink s = w at run link sched settings rests low cond
    refine ⟨_, run, (finish_link rests).trans link, (finish_sched rests).trans sched, fun ended => ?_⟩
    refine finish_linkDown (low.trans (calm_resetLow calm)) rests ?_ (by rw [settings]; exact enabled)
      (by rw [link]; simp) ended
    obtain ⟨_, _, _, _, _, _, seen⟩ := still_iff.mp (calm_still calm)
    rw [cond, seen, conditions_linkDown, if_neg (fun h => h.2 up)]
  case tick =>
    refine ⟨_, exec_tick calm none, tickTimers_frame s, fun i => ⟨fun c role => ?_, fun c role => ?_, fun role => ?_⟩⟩
    · rw [tickTimers_entry, ticked_of_source role]
    · rw [tickTimers_entry, ticked_of_sink role]
    · rw [tickTimers_entry, ticked_of_off role]

end Sys2Proof.Machine
end

section
/-! SUPPORT. The seed engine and its queue as the link leaves UP (R65, R70, R74, R88). -/

namespace Sys2Proof.Machine

variable {s t u w : State} {i j : WinIdx} {c d : SourceCtx}

/-! ### One stream -/

/-- The streams have only left the seed queue. -/
structure QueueOnly (s t : State) : Prop where
  seed : t.seed = { s.seed with queue := t.seed.queue }
  queue : t.seed.queue ⊆ s.seed.queue

theorem QueueOnly.refl (s : State) : QueueOnly s s := ⟨rfl, fun _ h => h⟩

theorem QueueOnly.trans (h : QueueOnly s t) (k : QueueOnly t u) : QueueOnly s u :=
  ⟨by rw [k.seed, h.seed], fun _ m => h.queue (k.queue m)⟩

theorem QueueOnly.of_seed_eq (h : QueueOnly s t) (e : u.seed = t.seed) : QueueOnly s u :=
  ⟨by rw [e]; exact h.seed, by rw [e]; exact h.queue⟩

theorem leaveQueue_subset (e : SeedEngine) (i : WinIdx) : (e.leaveQueue i).queue ⊆ e.queue := fun _ h =>
  (List.mem_filter.mp h).1

theorem suspend_queue (e : SeedEngine) (i : WinIdx) : (e.suspend i).queue = (e.leaveQueue i).queue := by
  unfold SeedEngine.suspend
  dsimp only
  split
  · split <;> rfl
  · rfl

theorem discard_queue (e : SeedEngine) (i : WinIdx) : (e.discard i).queue = (e.leaveQueue i).queue := by
  unfold SeedEngine.discard
  dsimp only
  split <;> split
  · split <;> rfl
  · rfl
  · split <;> rfl
  · rfl

/-- What a stream's reaction does to the seed engine (R65, R74, R75). -/
theorem sourceLinkLeft_seed (h : s.source? i = some c) : (sourceLinkLeft s i).seed =
    match c.state with
    | .seeding | .live => s.seed.suspend i
    | .closing => s.seed.discard i
    | _ => s.seed := by
  unfold sourceLinkLeft
  rw [h]
  dsimp only
  cases hc : c.state <;> dsimp only
  case seeding => rw [suspendSource_eq h]
  case live => rw [suspendSource_eq h]
  case opening => rw [modSource_seed]
  case resuming => rw [modSource_seed]
  case closing => rw [enterClosed_eq h, afterDiscard_seed]

theorem sourceLinkLeft_queue (s : State) (i : WinIdx) : (sourceLinkLeft s i).seed.queue ⊆ s.seed.queue := by
  cases h : s.source? i with
  | none =>
      rw [sourceLinkLeft_of_no_source h]
      exact fun _ m => m
  | some c =>
      rw [sourceLinkLeft_seed h]
      split
      · rw [suspend_queue]; exact leaveQueue_subset _ _
      · rw [suspend_queue]; exact leaveQueue_subset _ _
      · rw [discard_queue]; exact leaveQueue_subset _ _
      · exact fun _ m => m

/-- A suspended stream has left the queue (R65). -/
theorem sourceLinkLeft_leaves (h : s.source? i = some c) (hc : c.state = .seeding) :
    i ∉ (sourceLinkLeft s i).seed.queue := by
  rw [sourceLinkLeft_seed h, hc]
  dsimp only
  rw [suspend_queue]
  intro mem
  simpa using (List.mem_filter.mp mem).2

/-- The seed engine deals with no stream but that of window `i`. -/
def State.servesOnly (s : State) (i : WinIdx) : Prop :=
  (∀ j, s.seed.active = some j → j = i) ∧ s.seed.flight.all (fun f => f.win == i) = true

theorem sourceLinkLeft_queueOnly (hj : j ≠ i) (hs : s.servesOnly i) : QueueOnly s (sourceLinkLeft s j) := by
  obtain ⟨active, flight⟩ := hs
  have notActive : s.seed.active ≠ some j := fun h => hj (active j h)
  have notRead : (s.seed.flight.any fun f => f.win == j) = false := by
    cases hf : s.seed.flight with
    | none => rfl
    | some f =>
        rw [hf, Option.all_some, beq_iff_eq] at flight
        rw [Option.any_some, flight]
        exact beq_false_of_ne (Ne.symm hj)
  refine ⟨?_, sourceLinkLeft_queue s j⟩
  cases h : s.source? j with
  | none => rw [sourceLinkLeft_of_no_source h]
  | some c =>
      have suspended : s.seed.suspend j = { s.seed with queue := (s.seed.suspend j).queue } := by
        rw [suspend_queue]
        unfold SeedEngine.suspend
        dsimp only
        rw [if_neg (by exact notActive)]
        rfl
      have discarded : s.seed.discard j = { s.seed with queue := (s.seed.discard j).queue } := by
        rw [discard_queue]
        unfold SeedEngine.discard
        have notRead' : ((s.seed.leaveQueue j).flight.any fun f => f.win == j) = false := notRead
        dsimp only
        simp only [notRead', Bool.false_eq_true, if_false]
        rw [if_neg (by exact notActive)]
        rfl
      rw [sourceLinkLeft_seed h]
      cases c.state <;> dsimp only
      all_goals first
        | exact suspended
        | exact discarded

/-! ### The sweep -/

theorem sinkSweep_seed (s : State) : (allWindows.foldl sinkLinkLeft s).seed = s.seed :=
  foldl_all (R := fun s t => t.seed = s.seed) (fun _ => rfl) (fun _ _ _ h k => k.trans h)
    (fun s j => (sinkLinkLeft_sinkLocal (i := j) (s := s)).seed) allWindows s

/-- The sweep of the streams as the link leaves UP (R88). -/
def streamsSweep (s : State) : State := allWindows.foldl sinkLinkLeft (allWindows.foldl sourceLinkLeft s)

theorem leaveUp_streamsSweep (s : State) : leaveUp s = streamsSweep (clearSched (modLink Link.left s)) := rfl

theorem streamsSweep_seed (s : State) : (streamsSweep s).seed = (allWindows.foldl sourceLinkLeft s).seed :=
  sinkSweep_seed _

theorem streamsSweep_offered (s : State) (h : (allWindows.foldl sourceLinkLeft s).offers.held = true) :
    (streamsSweep s).offers.held = true := by
  unfold streamsSweep
  generalize allWindows.foldl sourceLinkLeft s = u at h ⊢
  exact (foldl_all StreamsLeft.refl (fun _ _ _ => StreamsLeft.trans) (fun _ j => sinkLinkLeft_streamsLeft j) allWindows
    u).offered h

/-- With every queued stream in SEEDING, all of them leave the queue (R65). -/
theorem streamsSweep_queue (h : ∀ j ∈ s.seed.queue, ∃ c, s.source? j = some c ∧ c.state = .seeding) :
    (streamsSweep s).seed.queue = [] := by
  rw [List.eq_nil_iff_forall_not_mem, streamsSweep_seed]
  intro j mem
  obtain ⟨u, ⟨entry, before⟩, _, after⟩ := foldl_at (f := sourceLinkLeft) (i := j)
    (R := fun s t => t.entry j = s.entry j ∧ t.seed.queue ⊆ s.seed.queue) (fun _ => ⟨rfl, fun _ m => m⟩)
    (fun _ _ _ h k => ⟨k.1.trans h.1, fun _ m => h.2 (k.2 m)⟩)
    (fun s k hk => ⟨sourceLinkLeft_sourceLocal.others j (Ne.symm hk), sourceLinkLeft_queue s k⟩) allWindows_nodup
    (mem_allWindows j) s
  have here := after mem
  obtain ⟨c, ctx, seeding⟩ := h j (before (sourceLinkLeft_queue u j here))
  exact sourceLinkLeft_leaves ((source?_congr entry).trans ctx) seeding here

/-- The seed engine after the sweep is what the reaction of the one stream it serves makes of it, but for the queue. -/
theorem streamsSweep_serves (hs : s.servesOnly i) (after : ∀ u, u.entry i = s.entry i → QueueOnly s u →
    (sourceLinkLeft u i).servesOnly i) : ∃ u, u.entry i = s.entry i ∧ QueueOnly s u
      ∧ QueueOnly (sourceLinkLeft u i) (streamsSweep s)
      ∧ ((sourceLinkLeft u i).offers.held = true → (streamsSweep s).offers.held = true) := by
  have keeps : ∀ s t : State, QueueOnly s t → s.servesOnly i → t.servesOnly i := fun s t h k => by
    unfold State.servesOnly
    rw [h.seed]
    exact k
  have swept := foldl_at (f := sourceLinkLeft) (i := i)
    (R := fun s t => t.entry i = s.entry i ∧ (s.servesOnly i → QueueOnly s t)
      ∧ (s.offers.held = true → t.offers.held = true))
    (fun s => ⟨rfl, fun _ => QueueOnly.refl s, id⟩)
    (fun s t u h k => ⟨k.1.trans h.1, fun o => (h.2.1 o).trans (k.2.1 (keeps s t (h.2.1 o) o)), fun o => k.2.2 (h.2.2 o)⟩)
    (fun s k hk => ⟨sourceLinkLeft_sourceLocal.others i (Ne.symm hk), sourceLinkLeft_queueOnly hk,
      (sourceLinkLeft_streamsLeft k).offered⟩) allWindows_nodup (mem_allWindows i) s
  obtain ⟨u, ⟨entry, before, _⟩, _, rest, offered⟩ := swept
  have first : QueueOnly s u := before hs
  have second := rest (after u entry first)
  have sinks := streamsSweep_offered s
  have seed := streamsSweep_seed s
  exact ⟨u, entry, first, second.of_seed_eq seed, fun o => sinks (offered o)⟩

/-! ### The part it leaves -/

/-- The table, the holders, the offers and the access port stand, and RESET_N. -/
structure SameHolders (s t : State) : Prop where
  windows : t.windows = s.windows
  seed : t.seed = s.seed
  acc : t.acc = s.acc
  bus : t.bus = s.bus
  offers : t.offers = s.offers
  resetLow : t.resetLow = s.resetLow

/-- The streams have been swept, whatever has come of the link and the port around it. -/
def Sweeps (s t : State) : Prop := ∃ w, SameHolders s w ∧ SameHolders (streamsSweep w) t

theorem leaveUp_sweeps (h : SameHolders s w) : SameHolders (streamsSweep (clearSched (modLink Link.left w))) (leaveUp w)
    ∧ SameHolders s (clearSched (modLink Link.left w)) :=
  ⟨⟨rfl, rfl, rfl, rfl, rfl, rfl⟩, ⟨h.windows, h.seed, h.acc, h.bus, h.offers, h.resetLow⟩⟩

theorem tryTrain_sameHolders (s : State) : SameHolders s (tryTrain s) := by
  rw [tryTrain_frame]
  exact ⟨rfl, rfl, rfl, rfl, rfl, rfl⟩

theorem SameHolders.trans (h : SameHolders s t) (k : SameHolders t u) : SameHolders s u :=
  ⟨k.windows.trans h.windows, k.seed.trans h.seed, k.acc.trans h.acc, k.bus.trans h.bus, k.offers.trans h.offers,
    k.resetLow.trans h.resetLow⟩

theorem port_sameHolders (s : State) (p : Port) : SameHolders s { s with port := p } := ⟨rfl, rfl, rfl, rfl, rfl, rfl⟩

theorem goDown_sweeps (h : SameHolders s w) (hu : w.link.state = .up) : Sweeps s (goDown w) := by
  rw [goDown_of_up hu]
  obtain ⟨after, before⟩ := leaveUp_sweeps h
  exact ⟨_, before, after⟩

theorem Sweeps.andThen (h : Sweeps s t) (k : SameHolders t u) : Sweeps s u := by
  obtain ⟨w, before, after⟩ := h
  exact ⟨w, before, after.trans k⟩

theorem dropLink_sweeps (h : SameHolders s w) (hu : w.link.state = .up) : Sweeps s (dropLink w) :=
  (goDown_sweeps h hu).andThen (tryTrain_sameHolders _)

/-- The five ways out of UP end with the sweep of the streams (R86, R88, R89, R175). -/
theorem leavesUp_sweeps {cmd : Instr} {n : Nat} (h : s.calm = true) (hu : s.link.state = .up)
    (hc : cmd = .laneReadyFall ∨ cmd = .silenceTimerExpiry ∧ s.link.silenceTimer = some 0 ∨ cmd = .helloFrame 1#8 false
      ∨ cmd = .linkEnableWrite 0#32 n ∧ 6 < n ∧ s.port.resetDue = false ∧ s.settings.linkEnable = true
      ∨ cmd = .linkRestart n ∧ 0 < n ∧ s.port.resetDue = false) :
    ∃ t, exec cmd s = .next (finish t) ∧ Sweeps s t := by
  have quiet : s.port.resetDue = false → s.quiet = true := fun due => by simp [State.quiet, h, due]
  rcases hc with rfl | ⟨rfl, due⟩ | rfl | ⟨rfl, long, due, enabled⟩ | ⟨rfl, counted, due⟩
  · exact ⟨_, exec_laneReadyFall h, goDown_sweeps ⟨rfl, rfl, rfl, rfl, rfl, rfl⟩ hu⟩
  · refine ⟨_, exec_silenceTimer h, ?_⟩
    unfold expireSilence
    rw [if_pos due]
    exact dropLink_sweeps ⟨rfl, rfl, rfl, rfl, rfl, rfl⟩ hu
  · have run : exec (.helloFrame 1#8 false) s = .next (finish (dropLink
        (modCounters (fun c => { c with framesReceived := c.framesReceived + 1#32 }) s))) := by
      have delivered : whenReceiving (deliver (.hello 1#8 false)) s =
          dropLink (modCounters (fun c => { c with framesReceived := c.framesReceived + 1#32 }) s) := by
        have counted : (modCounters (fun c => { c with framesReceived := c.framesReceived + 1#32 }) s).link.state = .up :=
          hu
        unfold whenReceiving deliver validFrame
        rw [if_neg (by simp [hu]), if_pos (show (Frame.hello 1#8 false).formatOk = true from rfl)]
        simp only [counted]
        rfl
      change Host.Outcome.next (outside (whenReceiving (deliver (.hello 1#8 false))) s) = _
      rw [outside_of_calm h, delivered]
    exact ⟨_, run, dropLink_sweeps ⟨rfl, rfl, rfl, rfl, rfl, rfl⟩ hu⟩
  · have run := exec_linkEnable_off (quiet due) long enabled
    have swept := goDown_sweeps (s := s) (w := { s with settings := { s.settings with linkEnable := false } })
      ⟨rfl, rfl, rfl, rfl, rfl, rfl⟩ hu
    generalize goDown { s with settings := { s.settings with linkEnable := false } } = z at run swept
    exact ⟨_, run, swept.andThen (port_sameHolders z _)⟩
  · have run := exec_linkRestart (quiet due) counted
    unfold restartLink at run
    rw [if_neg (by simp [hu])] at run
    have swept := dropLink_sweeps (s := s) (w := s) ⟨rfl, rfl, rfl, rfl, rfl, rfl⟩ hu
    generalize dropLink s = z at run swept
    exact ⟨_, run, swept.andThen (port_sameHolders z _)⟩

/-! ### The seed engine -/

theorem streamsSweep_rests (h : s.accessRests) : (streamsSweep s).accessRests := (streamsLeft_sweep s).rests h

/-- The seed engine at the end of an event in which the link has left UP, its queue emptied, is what the reaction of the
one stream it serves has made of it. -/
theorem finish_sweeps_seed {e : SeedEngine} (h : Sweeps s t) (rests : s.accessRests) (hs : s.servesOnly i)
    (hq : ∀ j ∈ s.seed.queue, ∃ c, s.source? j = some c ∧ c.state = .seeding)
    (after : ∀ u, u.entry i = s.entry i → u.seed = { s.seed with queue := u.seed.queue } →
      (sourceLinkLeft u i).servesOnly i ∧ { (sourceLinkLeft u i).seed with queue := [] } = e) :
    (finish t).seed = e ∧ t.accessRests ∧ t.resetLow = s.resetLow ∧ t.seed.queue = []
      ∧ ((∀ u, u.entry i = s.entry i → u.seed = { s.seed with queue := u.seed.queue } →
          (sourceLinkLeft u i).offers.held = true) → t.offers.held = true) := by
  obtain ⟨w, before, swept⟩ := h
  have entry : ∀ j, w.entry j = s.entry j := fun j => by simp [State.entry, before.windows]
  have serves : w.servesOnly i := by
    unfold State.servesOnly
    rw [before.seed]
    exact hs
  have emptied := streamsSweep_queue (s := w) (fun j mem => by
    rw [before.seed] at mem
    obtain ⟨c, ctx, seeding⟩ := hq j mem
    exact ⟨c, (source?_congr (entry j)).trans ctx, seeding⟩)
  have base : ∀ u, u.entry i = w.entry i → QueueOnly w u →
      u.entry i = s.entry i ∧ u.seed = { s.seed with queue := u.seed.queue } := fun u same only =>
    ⟨same.trans (entry i), by rw [only.seed, before.seed]⟩
  obtain ⟨u, same, only, rest, offered⟩ := streamsSweep_serves serves fun u same only =>
    (after u (base u same only).1 (base u same only).2).1
  obtain ⟨same', only'⟩ := base u same only
  have restsW : t.accessRests := accessRests_of_eq
    (streamsSweep_rests (accessRests_of_eq rests before.acc before.bus)) swept.acc swept.bus
  have empty : t.seed.queue = [] := by rw [swept.seed, emptied]
  have low := (streamsLeft_sweep w).kept.resetLow
  refine ⟨?_, restsW, swept.resetLow.trans (low.trans before.resetLow), empty, fun held => ?_⟩
  · rw [finish_seed_of_busy restsW (.inr empty), swept.seed, rest.seed, emptied]
    exact (after u same' only').2
  · rw [swept.offers]
    exact offered (held u same' only')

/-- Settles O26: every way out of UP sweeps the streams, and of them only the active one reaches the engine's phase. -/
theorem suspensionAtSeedEngine : Obligations.SuspensionAtSeedEngine := by
  unfold Obligations.SuspensionAtSeedEngine
  intro s i c n calm up active ctx queued cmd ways
  obtain ⟨t, run, swept⟩ := leavesUp_sweeps calm up ways
  have rests := still_accessRests (calm_still calm)
  have queue : ∀ j ∈ s.seed.queue, ∃ c, s.source? j = some c ∧ c.state = .seeding := fun j mem => by
    have seeding := List.all_eq_true.mp queued j mem
    cases hd : s.source? j with
    | none =>
        rw [hd] at seeding
        cases seeding
    | some d =>
        rw [hd, Option.any_some] at seeding
        exact ⟨d, rfl, beq_iff_eq.mp seeding⟩
  have one : ∀ j, s.seed.active = some j → j = i := fun j h => Option.some.inj (h.symm.trans active)
  refine ⟨_, run, fun seeding noRead phase => ?waits, fun seeding reading own => ?reads, fun state ends noRead => ?ends⟩
  case waits =>
    have serves : s.servesOnly i := ⟨one, by rw [noRead]; rfl⟩
    have reaction : ∀ u, u.entry i = s.entry i → u.seed = { s.seed with queue := u.seed.queue } →
        (sourceLinkLeft u i).seed = { (u.seed.leaveQueue i) with
          phase := .idle, active := none, chunkCount := 0, resv := none } := fun u same only => by
      have phase' : (u.seed.leaveQueue i).phase = .slotWait ∨ (u.seed.leaveQueue i).phase = .portWait := by
        change u.seed.phase = _ ∨ u.seed.phase = _
        rw [only]
        exact phase
      have active' : (u.seed.leaveQueue i).active = some i := by
        change u.seed.active = _
        rw [only]
        exact active
      rw [sourceLinkLeft_seed ((source?_congr same).trans ctx), seeding]
      dsimp only
      unfold SeedEngine.suspend
      dsimp only
      rw [if_pos active']
      rcases phase' with h | h <;> rw [h] <;> rfl
    obtain ⟨seed, restsT, low, empty, held⟩ := finish_sweeps_seed
      (e := { phase := .idle, active := none, chunkCount := 0, resv := none, flight := none, queue := [] })
      swept rests serves queue fun u same only => by
        have flight : u.seed.flight = none := by rw [only]; exact noRead
        have reacted := reaction u same only
        refine ⟨?_, ?_⟩
        · unfold State.servesOnly
          rw [reacted]
          refine ⟨fun j h => (by cases h), ?_⟩
          change u.seed.flight.all _ = true
          rw [flight]
          rfl
        · rw [reacted, ← flight]
          rfl
    refine ⟨seed, fun portWait => ?_⟩
    have offered := held fun u same only => by
      have wait : u.seed.phase = .portWait ∧ u.seed.active = some i := by rw [only]; exact ⟨portWait, active⟩
      unfold sourceLinkLeft
      rw [(source?_congr same).trans ctx]
      dsimp only
      rw [seeding]
      dsimp only
      rw [suspendSource_eq ((source?_congr same).trans ctx), if_pos wait]
    unfold State.heldOfferDue
    rw [finish_offers (low.trans (calm_resetLow calm)) restsT (.inr empty), finish_isHeld restsT]
    simp [State.heldOfferDue, offered]
  case reads =>
    have reaction : ∀ u, u.entry i = s.entry i → u.seed = { s.seed with queue := u.seed.queue } →
        (sourceLinkLeft u i).seed = { (u.seed.leaveQueue i) with active := none, chunkCount := 0 } := fun u same only => by
      have phase' : (u.seed.leaveQueue i).phase = .reading := by
        change u.seed.phase = _
        rw [only]
        exact reading
      have active' : (u.seed.leaveQueue i).active = some i := by
        change u.seed.active = _
        rw [only]
        exact active
      rw [sourceLinkLeft_seed ((source?_congr same).trans ctx), seeding]
      dsimp only
      unfold SeedEngine.suspend
      dsimp only
      rw [if_pos active', phase']
    refine (finish_sweeps_seed swept rests ⟨one, own⟩ queue fun u same only => ?_).1
    rw [State.servesOnly, reaction u same only]
    refine ⟨⟨fun j h => (by cases h), ?_⟩, ?_⟩
    · change u.seed.flight.all _ = true
      rw [only]
      exact own
    · change ({ u.seed with active := none, chunkCount := 0, queue := [] } : SeedEngine) = _
      rw [only]
  case ends =>
    have reaction : ∀ u, u.entry i = s.entry i → u.seed = { s.seed with queue := u.seed.queue } →
        (sourceLinkLeft u i).seed = { u.seed with queue := (sourceLinkLeft u i).seed.queue } := fun u same only => by
      have phase' : (u.seed.leaveQueue i).phase = .endWait := by
        change u.seed.phase = _
        rw [only]
        exact ends
      rw [sourceLinkLeft_seed ((source?_congr same).trans ctx)]
      rcases state with h | h
      · rw [h]
        dsimp only
        unfold SeedEngine.suspend
        dsimp only
        rw [phase']
        split
        · rfl
        · rfl
      · rw [h]
    have serves : s.servesOnly i := ⟨one, by rw [noRead]; rfl⟩
    refine (finish_sweeps_seed swept rests serves queue fun u same only => ?_).1
    rw [State.servesOnly, reaction u same only]
    refine ⟨?_, ?_⟩
    · rw [only]
      exact serves
    · rw [only]

end Sys2Proof.Machine
end

section
/-! SUPPORT. What an operation on one stream tells of the others: no other stream is noticed, of the link only the count of
stale frames can rise, and the access unit is given nothing to take (R94, R95, R161). -/

namespace Sys2Proof.Machine

variable {s t u : State} {i : WinIdx} {id x : StreamId}

/-! ### The relation -/

/-- An operation has told of the stream of window `i` at most. -/
structure Told (i : WinIdx) (s t : State) : Prop where
  stream : (t.entry i).stream = (s.entry i).stream
  notice : ∀ x, x ≠ (s.entry i).stream → t.noticed x = s.noticed x
  stale : t.link = { s.link with counters := { s.link.counters with staleFrames := t.link.counters.staleFrames } }
  rests : s.accessRests → t.accessRests

theorem Told.refl (i : WinIdx) (s : State) : Told i s s := ⟨rfl, fun _ _ => rfl, rfl, id⟩

theorem Told.trans (h : Told i s t) (k : Told i t u) : Told i s u :=
  ⟨k.stream.trans h.stream, fun x hx => (k.notice x (by rw [h.stream]; exact hx)).trans (h.notice x hx),
    by rw [k.stale, h.stale], fun r => k.rests (h.rests r)⟩

/-- An operation on one stream that notices none, and leaves the link and the access unit alone. -/
theorem StreamLocal.told (h : StreamLocal i s t) (hn : t.ev.notice = s.ev.notice) (hl : t.link = s.link)
    (hr : s.accessRests → t.accessRests) : Told i s t :=
  ⟨h.config.2.2.1, fun x _ => by simp only [State.noticed, hn], by rw [hl], hr⟩

theorem noticed_addNotice {e : EventUnit} (hs : e = s.ev) (ht : t.ev = e.addNotice id) (hx : x ≠ id) :
    t.noticed x = s.noticed x := by
  have apart : t.ev.notice &&& (1#16 <<< x.toNat) = s.ev.notice &&& (1#16 <<< x.toNat) := by
    rw [and_mask_eq_and_mask_iff]
    intro k hk bit
    have here : k = x.toNat := by
      rw [← BitVec.twoPow_eq, BitVec.getElem_twoPow] at bit
      exact decide_eq_true_eq.mp bit
    have other : (1#16 <<< id.toNat)[k] = false := by
      rw [← BitVec.twoPow_eq, BitVec.getElem_twoPow, decide_eq_false_iff_not, here]
      exact fun same => hx (BitVec.eq_of_toNat_eq same)
    rw [ht, hs]
    simp only [EventUnit.addNotice, BitVec.getElem_or, other, Bool.or_false]
  simp only [State.noticed, apart]

/-! ### The smallest operations -/

theorem raise_told (c : Cause) : Told i s (raise c s) :=
  (raise_sourceLocal c).toStreamLocal.told rfl rfl fun r => accessRests_of_eq r rfl rfl

theorem noticeWin_told : Told i s (noticeWin i s) :=
  ⟨rfl, fun _ hx => noticed_addNotice rfl rfl hx, rfl, fun r => accessRests_of_eq r rfl rfl⟩

theorem release_told : Told i s (release s) :=
  release_sourceLocal.toStreamLocal.told rfl rfl fun r => accessRests_of_eq r rfl rfl

theorem countStale_told : Told i s (countStale s) :=
  ⟨rfl, fun _ _ => rfl, rfl, fun r => accessRests_of_eq r rfl rfl⟩

theorem modSource_told (f : SourceCtx → SourceCtx) : Told i s (s.modSource i f) :=
  (modSource_sourceLocal f).toStreamLocal.told (by rw [modSource_ev]) (by simp)
    fun r => accessRests_of_eq r (by simp) (by simp)

theorem modSink_told (f : SinkCtx → SinkCtx) : Told i s (s.modSink i f) :=
  (modSink_sinkLocal f).toStreamLocal.told (by rw [modSink_ev]) (by simp) (modSink_sinkLocal f).accessRests

theorem place_told (id : StreamId) (epoch : Epoch) (b : Body) : Told i s (place id epoch b s) := by
  rw [place_frame]
  exact ⟨rfl, fun _ _ => rfl, rfl, fun r => accessRests_of_eq r rfl rfl⟩

theorem flag_told (id : StreamId) (f : AckFlag) : Told i s (flag id f s) := by
  rw [flag_sched_only]
  exact ⟨rfl, fun _ _ => rfl, rfl, fun r => accessRests_of_eq r rfl rfl⟩

theorem setAckFlag_told (id : StreamId) (f : Option AckFlag) : Told i s (setAckFlag id f s) :=
  ⟨rfl, fun _ _ => rfl, rfl, fun r => accessRests_of_eq r rfl rfl⟩

theorem flagAck_told (id : StreamId) (c : SinkCtx) : Told i s (flagAck id c s) := by
  rw [flagAck_sched_only]
  exact ⟨rfl, fun _ _ => rfl, rfl, fun r => accessRests_of_eq r rfl rfl⟩

theorem withdrawApply_told (k : WinIdx) : Told i s (withdrawApply k s) := by
  rw [withdrawApply_frame]
  exact ⟨rfl, fun _ _ => rfl, rfl, fun r => accessRests_of_eq r rfl rfl⟩

theorem joinSeedQueue_told (k : WinIdx) : Told i s (joinSeedQueue k s) :=
  ⟨rfl, fun _ _ => rfl, rfl, fun r => accessRests_of_eq r rfl rfl⟩

/-! ### The source side -/

theorem endFence_told (o : FenceOutcome) (tag : Tag) : Told i s (endFence i o tag s) :=
  ((modSource_told _).trans noticeWin_told).trans (raise_told _)

theorem abandonFence_told : Told i s (abandonFence i s) := by
  unfold abandonFence
  split
  · split
    · exact endFence_told _ _
    · exact Told.refl i s
  · exact Told.refl i s

theorem seedEndFreed_told : Told i s (seedEndFreed i s) := by
  unfold seedEndFreed
  split
  · split
    · exact ((modSource_told _).trans noticeWin_told).trans (raise_told _)
    · exact Told.refl i s
  · exact Told.refl i s

theorem releaseUnless_told (n : Nat) : Told i s (if n = 0 then s else release s) := by
  split
  · exact Told.refl i s
  · exact release_told

theorem freeBefore_told (e : Seq) : Told i s (freeBefore i e s) := by
  have fence : ∀ (o : Option Tag) (t : State), Told i t (match o with
      | some tag => endFence i .completed tag t
      | none => t) := by
    intro o t
    split
    · exact endFence_told _ _
    · exact Told.refl i t
  unfold freeBefore
  split
  · exact Told.refl i s
  · dsimp only
    split
    · exact (((modSource_told _).trans (releaseUnless_told _)).trans (fence _ _)).trans seedEndFreed_told
    · exact ((modSource_told _).trans (releaseUnless_told _)).trans (fence _ _)

theorem discard_told : Told i s (discard i s) := by
  have holders : ∀ t : State, Told i t { t with acc := t.acc.discard i, seed := t.seed.discard i } := fun t =>
    ⟨rfl, fun _ _ => rfl, rfl, fun r => accessRests_of_discard r rfl rfl⟩
  unfold discard
  exact ((modSource_told _).trans abandonFence_told).trans ((holders _).trans release_told)

theorem enterOpening_told (r : OpenReason) : Told i s (enterOpening i r s) := by
  unfold enterOpening
  split
  · exact Told.refl i s
  · refine Told.trans ?_ (place_told _ _ _)
    exact ⟨by simp, fun _ _ => rfl, rfl, fun r => accessRests_of_eq r rfl rfl⟩

theorem openOrPend_told (r : OpenReason) : Told i s (openOrPend i r s) := by
  unfold openOrPend
  split
  · exact enterOpening_told r
  · exact modSource_told _

theorem reseed_told : Told i s (reseed i s) := by
  unfold reseed
  exact (((discard_told.trans (modSource_told _)).trans noticeWin_told).trans (raise_told _)).trans (openOrPend_told _)

theorem faultStream_told (r : FaultReason) : Told i s (faultStream i r s) := by
  unfold faultStream
  exact ((discard_told.trans (modSource_told _)).trans noticeWin_told).trans (raise_told _)

theorem enterClosed_told : Told i s (enterClosed i s) := by
  unfold enterClosed
  exact discard_told.trans (modSource_told _)

theorem enterClosing_told : Told i s (enterClosing i s) := by
  unfold enterClosing
  dsimp only
  split
  · exact (discard_told.trans (modSource_told _)).trans (place_told _ _ _)
  · exact discard_told.trans (modSource_told _)

theorem takeContinue_told (e : Seq) : Told i s (takeContinue i e s) := by
  unfold takeContinue
  dsimp only
  split
  · split
    · exact (((modSource_told _).trans (freeBefore_told _)).trans (modSource_told _)).trans (joinSeedQueue_told i)
    · exact ((modSource_told _).trans (freeBefore_told _)).trans (modSource_told _)
  · exact ((modSource_told _).trans (freeBefore_told _)).trans (modSource_told _)

theorem takeReopenReply_told (c : SourceCtx) (v : Verdict) (e : Seq) : Told i s (takeReopenReply i c v e s) := by
  unfold takeReopenReply
  dsimp only
  split
  · exact (modSource_told _).trans (takeContinue_told e)
  · exact (modSource_told _).trans reseed_told

theorem takeAck_told (c : SourceCtx) (a : Seq) : Told i s (takeAck i c a s) := by
  unfold takeAck
  split
  · exact (modSource_told _).trans (freeBefore_told _)
  · exact countStale_told

theorem takeNak_told (c : SourceCtx) (a : Seq) : Told i s (takeNak i c a s) := by
  unfold takeNak
  split
  · exact (freeBefore_told _).trans (modSource_told _)
  · exact countStale_told

theorem yieldIfOn_told : Told i s (yieldIfOn i s) := by
  have becomes : Told i s (s.setRole i (.sink newSink)) :=
    ⟨by simp, fun _ _ => rfl, rfl, fun r => accessRests_of_eq r rfl rfl⟩
  unfold yieldIfOn
  split
  · exact becomes.trans noticeWin_told
  · exact Told.refl i s

theorem takePromoted_told (c : SourceCtx) (l : Seq) : Told i s (takePromoted i c l s) := by
  unfold takePromoted
  dsimp only
  split
  · exact (((freeBefore_told _).trans (modSource_told _)).trans (faultStream_told _)).trans yieldIfOn_told
  · exact (faultStream_told _).trans yieldIfOn_told

theorem takeAtSource_told (c : SourceCtx) (b : Body) : Told i s (takeAtSource i c b s) := by
  unfold takeAtSource
  generalize c.state = st
  cases st <;> cases b <;> dsimp only <;> with_reducible first
    | exact countStale_told
    | exact faultStream_told _
    | exact takeAck_told c _
    | exact takeNak_told c _
    | exact takePromoted_told c _
    | exact enterClosed_told
    | exact (modSource_told _).trans (joinSeedQueue_told i)
    | exact takeReopenReply_told c _ _
    | exact enterClosed_told.trans yieldIfOn_told

theorem sourceFrame_told (epoch : Epoch) (b : Body) : Told i s (sourceFrame i epoch b s) := by
  unfold sourceFrame
  split
  · split
    · exact takeAtSource_told _ b
    · exact countStale_told
  · exact countStale_told

theorem placeControl_told (c : SourceCtx) : Told i s (placeControl i c s) := by
  unfold placeControl
  split
  · exact place_told _ _ _
  · exact place_told _ _ _
  · exact place_told _ _ _
  · exact Told.refl i s

theorem retxExpired_told (c : SourceCtx) : Told i s (retxExpired i c s) := by
  have tries : ∀ f : SourceCtx → SourceCtx, Told i s
      (if c.retryCount < s.settings.retxLimit then s.modSource i f else faultStream i .noProgress s) := fun f => by
    split
    · exact modSource_told _
    · exact faultStream_told _
  unfold retxExpired
  split
  · exact tries _
  · exact tries _
  · exact modSource_told _

theorem ctlAgain_told (c : SourceCtx) {f : State → State} (h : Told i s (f s)) : Told i s (ctlAgain i c f s) := by
  unfold ctlAgain
  split
  · exact (modSource_told _).trans (placeControl_told c)
  · exact h

theorem ctlExpired_told (c : SourceCtx) : Told i s (ctlExpired i c s) := by
  unfold ctlExpired
  split
  · exact ctlAgain_told c (faultStream_told _)
  · exact ctlAgain_told c (faultStream_told _)
  · exact ctlAgain_told c enterClosed_told
  · exact modSource_told _

/-! ### The sink side -/

theorem nakOnce_told : Told i s (nakOnce i s) := by
  unfold nakOnce
  split
  · split
    · exact Told.refl i s
    · exact (modSink_told _).trans (flag_told _ _)
  · exact Told.refl i s

theorem markerAck_told : Told i s (markerAck i s) := by
  unfold markerAck
  split
  · exact flagAck_told _ _
  · exact Told.refl i s

theorem markerEnd_told (r : RecBody) : Told i s (markerEnd i r s) := by
  unfold markerEnd
  split
  · split
    · exact ((modSink_told _).trans noticeWin_told).trans (raise_told _)
    · exact Told.refl i s
  · exact Told.refl i s

theorem applyMarker_told (r : RecBody) : Told i s (applyMarker i r s) := by
  rw [applyMarker_steps]
  exact ((modSink_told _).trans markerAck_told).trans (markerEnd_told r)

theorem discardUnusable_told : Told i s (discardUnusable i s) := by
  unfold discardUnusable
  exact ((modSink_told _).trans countStale_told).trans nakOnce_told

theorem applyTest_told (n : Nat) : Told i s (applyTest i n s) := by
  induction n generalizing s with
  | zero => exact Told.refl i s
  | succ n ih =>
      unfold applyTest
      split
      · split
        · exact (applyMarker_told _).trans ih
        · exact discardUnusable_told
        · exact Told.refl i s
      · exact Told.refl i s

theorem closeSinkCtx_told (r : CloseReason) : Told i s (closeSinkCtx i r s) := by
  unfold closeSinkCtx
  exact ((modSink_told _).trans (setAckFlag_told _ _)).trans (withdrawApply_told i)

theorem newPairing_told (epoch : Epoch) : Told i s (newPairing i epoch s) := by
  unfold newPairing
  exact (((modSink_told _).trans (setAckFlag_told _ _)).trans (withdrawApply_told i)).trans (place_told _ _ _)

theorem giveContinue_told (c : SinkCtx) : Told i s (giveContinue i c s) := by
  unfold giveContinue
  exact (((place_told _ _ _).trans (modSink_told _)).trans (setAckFlag_told _ _)).trans (withdrawApply_told i)

theorem holdRecord_told (c : SinkCtx) (r : RecBody) : Told i s (holdRecord i c r s) := by
  unfold holdRecord
  dsimp only
  split
  · exact ((modSink_told _).trans nakOnce_told).trans (applyTest_told 5)
  · exact (modSink_told _).trans (applyTest_told 5)

theorem admission_told (c : SinkCtx) (r : RecBody) : Told i s (admission i c r s) := by
  unfold admission
  split
  · exact countStale_told
  · split
    · split
      · exact modSink_told _
      · exact holdRecord_told c r
    · split
      · exact (modSink_told _).trans (flagAck_told _ _)
      · exact (modSink_told _).trans nakOnce_told

theorem recordAtCtx_told (c : SinkCtx) (epoch : Epoch) (r : RecBody) : Told i s (recordAtCtx i c epoch r s) := by
  have wakes : Told i s
      (if c.state = .suspended then s.modSink i fun c => { c with state := c.prior.sinkState } else s) := by
    split
    · exact modSink_told _
    · exact Told.refl i s
  unfold recordAtCtx
  split
  · exact countStale_told
  · dsimp only
    split
    · exact wakes.trans (admission_told _ r)
    · exact wakes

theorem ackExpired_told (c : SinkCtx) : Told i s (ackExpired i c s) := by
  unfold ackExpired
  dsimp only
  split
  · exact (modSink_told _).trans (flagAck_told _ _)
  · exact modSink_told _

end Sys2Proof.Machine
end

section
/-! SUPPORT. What the dispatch of a stream frame, a stream's timer and a stream operation touch: one stream (R94, R174). -/

namespace Sys2Proof.Machine

variable {s t u : State} {i : WinIdx} {id x : StreamId}

/-! ### The relation -/

/-- Only the window the lookup of `id` finds, and the slots and the notice of `id`, have been touched. -/
structure OneStream (id : StreamId) (s t : State) : Prop where
  lookup : t.lookup id = s.lookup id
  entries : ∀ j, s.lookup id ≠ some j → t.entry j = s.entry j
  slots : ∀ x, x ≠ id → t.ctlSlot x = s.ctlSlot x ∧ t.ackFlag x = s.ackFlag x
  notice : ∀ x, x ≠ id → t.noticed x = s.noticed x
  bus : t.bus = s.bus
  arb : t.arb = s.arb
  sched : t.sched = { s.sched with ctl := t.sched.ctl, ack := t.sched.ack }
  stale : t.link = { s.link with counters := { s.link.counters with staleFrames := t.link.counters.staleFrames } }
  settings : t.settings = s.settings
  tickLength : t.tickLength = s.tickLength
  grows : s.ev.Grows t.ev
  rests : s.accessRests → t.accessRests

theorem OneStream.refl (id : StreamId) (s : State) : OneStream id s s :=
  ⟨rfl, fun _ _ => rfl, fun _ _ => ⟨rfl, rfl⟩, fun _ _ => rfl, rfl, rfl, rfl, rfl, rfl, rfl, EventUnit.Grows.refl _, fun r => r⟩

theorem OneStream.trans (h : OneStream id s t) (k : OneStream id t u) : OneStream id s u where
  lookup := k.lookup.trans h.lookup
  entries j hj := (k.entries j (by rw [h.lookup]; exact hj)).trans (h.entries j hj)
  slots x hx := ⟨(k.slots x hx).1.trans (h.slots x hx).1, (k.slots x hx).2.trans (h.slots x hx).2⟩
  notice x hx := (k.notice x hx).trans (h.notice x hx)
  bus := k.bus.trans h.bus
  arb := k.arb.trans h.arb
  sched := by rw [k.sched, h.sched]
  stale := by rw [k.stale, h.stale]
  settings := k.settings.trans h.settings
  tickLength := k.tickLength.trans h.tickLength
  grows := h.grows.trans k.grows
  rests r := k.rests (h.rests r)

/-- An operation on the stream of the window that the lookup finds. -/
theorem StreamLocal.oneStream (h : StreamLocal i s t) (told : Told i s t) (hl : s.lookup id = some i) :
    OneStream id s t := by
  have stream := (lookup_some hl).2
  exact {
    lookup := h.lookup id
    entries := fun j hj => h.others j fun same => hj (same ▸ hl)
    slots := fun x hx => h.slots x (by rw [stream]; exact hx)
    notice := fun x hx => told.notice x (by rw [stream]; exact hx)
    bus := h.bus, arb := h.arb, sched := h.sched, stale := told.stale, settings := h.settings
    tickLength := h.tickLength, grows := h.grows, rests := told.rests }

theorem place_oneStream (epoch : Epoch) (b : Body) : OneStream id s (place id epoch b s) := by
  unfold place
  split
  · refine ⟨rfl, fun _ _ => rfl, fun x hx => ⟨?_, rfl⟩, fun _ _ => rfl, rfl, rfl, rfl, rfl, rfl, rfl,
      EventUnit.Grows.refl _, fun r => accessRests_of_eq r rfl rfl⟩
    rw [setCtlSlot_ctlSlot, if_neg hx]
  · exact OneStream.refl id s

theorem countStale_oneStream : OneStream id s (countStale s) :=
  ⟨rfl, fun _ _ => rfl, fun _ _ => ⟨rfl, rfl⟩, fun _ _ => rfl, rfl, rfl, rfl, rfl, rfl, rfl, EventUnit.Grows.refl _,
    fun r => accessRests_of_eq r rfl rfl⟩

/-! ### Frames -/

theorem openAtSink_oneStream (epoch : Epoch) (length : Word) : OneStream id s (openAtSink id epoch length s) := by
  unfold openAtSink
  split
  · exact place_oneStream _ _
  · rename_i i found
    split
    · exact place_oneStream _ _
    · split
      · exact place_oneStream _ _
      · split
        · exact place_oneStream _ _
        · exact (newPairing_sinkLocal epoch).toStreamLocal.oneStream (newPairing_told epoch) found

/-- What a lookup with its sink context finds. -/
theorem lookup_sink_some {c : SinkCtx} (h : ((s.lookup id).bind fun i => (s.sink? i).map fun c => (i, c)) = some (i, c)) :
    s.lookup id = some i ∧ s.sink? i = some c := by
  simp only [Option.bind_eq_some_iff, Option.map_eq_some_iff, Prod.mk.injEq] at h
  obtain ⟨k, found, d, ctx, rfl, rfl⟩ := h
  exact ⟨found, ctx⟩

theorem reopenAtSink_oneStream (epoch : Epoch) (o n : Seq) : OneStream id s (reopenAtSink id epoch o n s) := by
  unfold reopenAtSink
  split
  · exact place_oneStream _ _
  · split
    · rename_i found
      split
      · exact (giveContinue_sinkLocal _).toStreamLocal.oneStream (giveContinue_told _) (lookup_sink_some found).1
      · exact place_oneStream _ _
    · exact place_oneStream _ _

theorem recordAtSink_oneStream (epoch : Epoch) (r : RecBody) : OneStream id s (recordAtSink id epoch r s) := by
  unfold recordAtSink
  split
  · exact place_oneStream _ _
  · split
    · rename_i found
      split
      · exact place_oneStream _ _
      · exact (recordAtCtx_sinkLocal _ epoch r).toStreamLocal.oneStream (recordAtCtx_told _ epoch r)
          (lookup_sink_some found).1
    · exact place_oneStream _ _

theorem closeAtSink_oneStream (epoch : Epoch) : OneStream id s (closeAtSink id epoch s) := by
  unfold closeAtSink
  split
  · rename_i i c found
    split
    · have closes := ((closeSinkCtx_sinkLocal (s := s) (i := i) .peer).trans (noticeWin_sinkLocal i)).trans
        (raise_sinkLocal .streamClosed)
      have told := ((closeSinkCtx_told (s := s) (i := i) .peer).trans noticeWin_told).trans (raise_told .streamClosed)
      exact (closes.toStreamLocal.oneStream told (lookup_sink_some found).1).trans (place_oneStream _ _)
    · exact place_oneStream _ _
  · exact place_oneStream _ _

theorem sourceFrame_oneStream (epoch : Epoch) (b : Body) (h : s.findsSource id = some i) :
    OneStream id s (sourceFrame i epoch b s) :=
  (sourceFrame_sourceLocal epoch b).toStreamLocal.oneStream (sourceFrame_told epoch b) (findsSource_some h).1

/-- A stream frame touches the stream it names alone (R94). -/
theorem dispatch_oneStream (epoch : Epoch) (b : Body) : OneStream id s (dispatch id epoch b s) := by
  unfold dispatch
  split
  · exact openAtSink_oneStream _ _
  · exact reopenAtSink_oneStream _ _ _
  · exact recordAtSink_oneStream _ _
  · split
    · rename_i found
      exact sourceFrame_oneStream _ _ found
    · exact closeAtSink_oneStream _
  all_goals
    split
    · rename_i found
      exact sourceFrame_oneStream _ _ found
    · exact countStale_oneStream

end Sys2Proof.Machine
end

section
/-! SUPPORT. The link's entry into UP, and the frames it comes with (R83, R84, R85, R112). -/

namespace Sys2Proof.Machine

variable {s t u : State} {i j : WinIdx} {id x : StreamId} {c d : SourceCtx}

/-! ### What each stream does -/

theorem sourceLinkUp_of_no_source (h : s.source? i = none) : sourceLinkUp s i = s := by
  unfold sourceLinkUp
  rw [h]

theorem sourceLinkUp_of_other (h : s.source? i = some c) (hp : c.state ≠ .pending) (hs : c.state ≠ .suspended) :
    sourceLinkUp s i = s := by
  unfold sourceLinkUp
  rw [h]
  dsimp only
  cases hc : c.state <;> first
    | rfl
    | exact absurd hc hp
    | exact absurd hc hs

theorem sourceLinkUp_of_pending (h : s.source? i = some c) (hc : c.state = .pending) :
    sourceLinkUp s i = enterOpening i (c.openReason.getD .new) s := by
  unfold sourceLinkUp
  rw [h]
  dsimp only
  rw [hc]

/-- A stream that resumes (R112). -/
def SourceCtx.resumingNow (c : SourceCtx) (timeout : Nat) : SourceCtx :=
  { c with state := .resuming, triesLeft := Config.controlTries - 1, ctlTimer := some timeout }

theorem sourceLinkUp_of_suspended (h : s.source? i = some c) (hc : c.state = .suspended) : sourceLinkUp s i =
    place (s.entry i).stream c.epoch (.reopen c.oldest c.nextSeq)
      (s.setRole i (.source (c.resumingNow s.settings.controlTimeout))) := by
  unfold sourceLinkUp
  rw [h]
  dsimp only
  rw [hc]
  dsimp only
  rw [modSource_some _ h]
  simp only [State.streamOf, setRole_entry, if_true]
  rfl

theorem sourceLinkUp_frame (s : State) (i : WinIdx) :
    sourceLinkUp s i = { s with windows := (sourceLinkUp s i).windows, sched := (sourceLinkUp s i).sched } := by
  cases h : s.source? i with
  | none => rw [sourceLinkUp_of_no_source h]
  | some c =>
      by_cases pending : c.state = .pending
      · rw [sourceLinkUp_of_pending h pending, enterOpening_eq h, place_frame]
        rfl
      · by_cases suspended : c.state = .suspended
        · rw [sourceLinkUp_of_suspended h suspended, place_frame]
          rfl
        · rw [sourceLinkUp_of_other h pending suspended]

theorem sourceLinkUp_spared (hj : j ≠ i) : Spared i s (sourceLinkUp s j) := by
  cases h : s.source? j with
  | none =>
      rw [sourceLinkUp_of_no_source h]
      exact Spared.refl i s
  | some c => exact sourceLinkUp_sourceLocal.toStreamLocal.spared hj (enabled_of_source h) (by rw [sourceLinkUp_frame])

/-! ### The sweep -/

/-- The sweep of the source streams as the link enters UP (R112). -/
def upSweep (s : State) : State := allWindows.foldl sourceLinkUp s

theorem upSweep_frame (s : State) :
    upSweep s = { s with windows := (upSweep s).windows, sched := (upSweep s).sched } :=
  foldl_all (R := fun s t => t = { s with windows := t.windows, sched := t.sched }) (fun _ => rfl)
    (fun s t u h k => by rw [k, h]) sourceLinkUp_frame allWindows s

theorem upSweep_at (i : WinIdx) (s : State) : ∃ u, Spared i s u ∧ Spared i (sourceLinkUp u i) (upSweep s) :=
  foldl_at (fun s => Spared.refl i s) (fun _ _ _ => Spared.trans) (fun _ _ hj => sourceLinkUp_spared hj) allWindows_nodup
    (mem_allWindows i) s

/-- A stream that neither waits for the link nor is suspended stands (R112). -/
theorem upSweep_other (h : ∀ c, s.source? i = some c → c.state ≠ .pending ∧ c.state ≠ .suspended) :
    (upSweep s).entry i = s.entry i := by
  obtain ⟨u, before, after⟩ := upSweep_at i s
  have stays : sourceLinkUp u i = u := by
    cases hc : u.source? i with
    | none => exact sourceLinkUp_of_no_source hc
    | some c =>
        obtain ⟨pending, suspended⟩ := h c ((source?_congr before.entry).symm.trans hc)
        exact sourceLinkUp_of_other hc pending suspended
  rw [after.entry, stays, before.entry]

/-- The control slot of a stream after the sweep is what the stream's own step has placed there. -/
theorem upSweep_slot (hv : s.windowsValid = true) (h : s.source? i = some c) :
    ∃ u, Spared i s u ∧ (upSweep s).entry i = (sourceLinkUp u i).entry i
      ∧ (upSweep s).ctlSlot (s.entry i).stream = (sourceLinkUp u i).ctlSlot (s.entry i).stream := by
  obtain ⟨u, before, after⟩ := upSweep_at i s
  have apart := apart_of_windowsValid hv (enabled_of_source h)
  have stepped : Kept s (sourceLinkUp u i) := before.kept.trans sourceLinkUp_sourceLocal.toStreamLocal.kept
  have stream : ((sourceLinkUp u i).entry i).stream = (s.entry i).stream := (stepped.config i).2.2.1
  have slot := (after.slots (stepped.apart apart)).1
  rw [stream] at slot
  exact ⟨u, before, after.entry, slot⟩

/-- A PENDING stream opens (R112). -/
theorem upSweep_pending (hu : s.link.state = .up) (hv : s.windowsValid = true) (h : s.source? i = some c)
    (hc : c.state = .pending) :
    (upSweep s).entry i = { s.entry i with
        role := .source (c.openingNow (c.openReason.getD .new) s.settings.controlTimeout), promotion := none }
      ∧ (upSweep s).ctlSlot (s.entry i).stream = some
        { epoch := c.epoch + 1#8, body := .openReq (s.entry i).length (c.openReason.getD .new) } := by
  obtain ⟨u, before, entry, slot⟩ := upSweep_slot hv h
  have ctx := (source?_congr before.entry).trans h
  have up : u.link.state = .up := by rw [before.link]; exact hu
  rw [entry, slot, sourceLinkUp_of_pending ctx hc, enterOpening_eq ctx, place_of_up (by exact up), before.entry,
    before.kept.settings]
  exact ⟨setEntry_entry_same _ _ _, (setCtlSlot_ctlSlot _ _ _ _).trans (if_pos rfl)⟩

/-- A SUSPENDED stream resumes (R112). -/
theorem upSweep_suspended (hu : s.link.state = .up) (hv : s.windowsValid = true) (h : s.source? i = some c)
    (hc : c.state = .suspended) :
    (upSweep s).source? i = some (c.resumingNow s.settings.controlTimeout)
      ∧ (upSweep s).ctlSlot (s.entry i).stream = some { epoch := c.epoch, body := .reopen c.oldest c.nextSeq } := by
  obtain ⟨u, before, entry, slot⟩ := upSweep_slot hv h
  have ctx := (source?_congr before.entry).trans h
  have up : u.link.state = .up := by rw [before.link]; exact hu
  rw [source?_congr entry, slot, sourceLinkUp_of_suspended ctx hc, place_of_up (by exact up), before.entry,
    before.kept.settings]
  exact ⟨(setRole_source? u i i _).trans (if_pos rfl), (setCtlSlot_ctlSlot _ _ _ _).trans (if_pos rfl)⟩

/-! ### The entry into UP -/

theorem enterUp_upSweep (s : State) : enterUp s = upSweep (raise .linkUp (modLink (fun l => l.entered s.settings) s)) := rfl

theorem enterUp_frame (s : State) : enterUp s = { s with
    windows := (enterUp s).windows, sched := (enterUp s).sched, link := s.link.entered s.settings
    ev := s.ev.raise .linkUp } := by
  have frame := upSweep_frame (raise .linkUp (modLink (fun l => l.entered s.settings) s))
  rw [enterUp_upSweep]
  generalize upSweep (raise .linkUp (modLink (fun l => l.entered s.settings) s)) = u at frame ⊢
  rw [frame]
  rfl

/-- What the entry into UP does to each source stream (R112). -/
theorem enterUp_streams (hv : s.windowsValid = true) (h : s.source? i = some c) :
    (c.state = .pending → (enterUp s).entry i = { s.entry i with
        role := .source (c.openingNow (c.openReason.getD .new) s.settings.controlTimeout), promotion := none }
      ∧ (enterUp s).ctlSlot (s.entry i).stream = some
        { epoch := c.epoch + 1#8, body := .openReq (s.entry i).length (c.openReason.getD .new) })
    ∧ (c.state = .suspended → (enterUp s).source? i = some (c.resumingNow s.settings.controlTimeout)
      ∧ (enterUp s).ctlSlot (s.entry i).stream = some { epoch := c.epoch, body := .reopen c.oldest c.nextSeq })
    ∧ (c.state ≠ .pending → c.state ≠ .suspended → (enterUp s).entry i = s.entry i) := by
  rw [enterUp_upSweep]
  refine ⟨fun pending => ?_, fun suspended => ?_, fun pending suspended => ?_⟩
  · exact upSweep_pending (s := raise .linkUp (modLink (fun l => l.entered s.settings) s)) rfl hv h pending
  · exact upSweep_suspended (s := raise .linkUp (modLink (fun l => l.entered s.settings) s)) rfl hv h suspended
  · refine upSweep_other (s := raise .linkUp (modLink (fun l => l.entered s.settings) s)) fun d hd => ?_
    have same : d = c := Option.some.inj (hd.symm.trans h)
    rw [same]
    exact ⟨pending, suspended⟩

end Sys2Proof.Machine
end

section
/-! SUPPORT. The link frames and the first stream frame in TRAINING (R82 to R88, R112, R124, R129, R139). -/

namespace Sys2Proof.Machine

variable {s t u w : State} {i j : WinIdx} {id x : StreamId} {epoch : Epoch} {b : Body} {c d : SourceCtx} {k : SinkCtx}

/-! ### Delivery -/

/-- A valid frame has been counted (R95). -/
def State.counted (s : State) : State :=
  modCounters (fun c => { c with framesReceived := c.framesReceived + 1#32 }) s

theorem received_calm (h : s.calm = true) (hl : s.link.state ≠ .down) {f : Frame} (hf : f.formatOk = true) :
    received f s = finish (validFrame f s) := by
  unfold received whenReceiving deliver
  rw [outside_of_calm h, if_neg hl, if_pos hf]

theorem validFrame_hello_training (h : s.link.state = .training) (version : Byte) (heard : Bool) :
    validFrame (.hello version heard) s = helloInTraining version heard s.counted := by
  have h' : s.counted.link.state = .training := h
  unfold validFrame
  rw [show modCounters (fun c => { c with framesReceived := c.framesReceived + 1#32 }) s = s.counted from rfl]
  simp only [h']

theorem validFrame_hello_up (h : s.link.state = .up) (version : Byte) (heard : Bool) :
    validFrame (.hello version heard) s = helloInUp version heard s.counted := by
  have h' : s.counted.link.state = .up := h
  unfold validFrame
  rw [show modCounters (fun c => { c with framesReceived := c.framesReceived + 1#32 }) s = s.counted from rfl]
  simp only [h']

theorem validFrame_keepalive_training (h : s.link.state = .training) : validFrame .keepalive s = enterUp s.counted := by
  have h' : s.counted.link.state = .training := h
  unfold validFrame
  rw [show modCounters (fun c => { c with framesReceived := c.framesReceived + 1#32 }) s = s.counted from rfl]
  simp only [h']
  rfl

theorem validFrame_keepalive_up (h : s.link.state = .up) : validFrame .keepalive s = s.tookFrame := by
  have h' : s.counted.link.state = .up := h
  unfold validFrame
  rw [show modCounters (fun c => { c with framesReceived := c.framesReceived + 1#32 }) s = s.counted from rfl]
  simp only [h']
  rfl

theorem validFrame_stream_training (h : s.link.state = .training) :
    validFrame (.stream id epoch b) s = dispatch id epoch b (enterUp s.counted) := by
  have h' : s.counted.link.state = .training := h
  unfold validFrame
  rw [show modCounters (fun c => { c with framesReceived := c.framesReceived + 1#32 }) s = s.counted from rfl]
  simp only [h']
  rfl

theorem validFrame_stream_up (h : s.link.state = .up) :
    validFrame (.stream id epoch b) s = dispatch id epoch b s.tookFrame := by
  have h' : s.counted.link.state = .up := h
  unfold validFrame
  rw [show modCounters (fun c => { c with framesReceived := c.framesReceived + 1#32 }) s = s.counted from rfl]
  simp only [h']
  rfl

theorem exec_hello_training (h : s.calm = true) (hl : s.link.state = .training) (version : Byte) (heard : Bool) :
    exec (.helloFrame version heard) s = .next (finish (helloInTraining version heard s.counted)) := by
  change Host.Outcome.next (received (.hello version heard) s) = _
  rw [received_calm h (by simp [hl]) rfl, validFrame_hello_training hl]

theorem exec_hello_up (h : s.calm = true) (hl : s.link.state = .up) (version : Byte) (heard : Bool) :
    exec (.helloFrame version heard) s = .next (finish (helloInUp version heard s.counted)) := by
  change Host.Outcome.next (received (.hello version heard) s) = _
  rw [received_calm h (by simp [hl]) rfl, validFrame_hello_up hl]

/-- The first stream frame in TRAINING takes the link UP and has its effect there (R84). -/
theorem exec_stream_training (h : s.calm = true) (hl : s.link.state = .training)
    (hf : (Frame.stream id epoch b).formatOk = true) :
    exec (frameCommand (.stream id epoch b)) s = .next (finish (dispatch id epoch b (enterUp s.counted))) := by
  rw [exec_frameCommand, received_calm h (by simp [hl]) hf, validFrame_stream_training hl]

/-! ### The entry into UP -/

theorem enterUp_linkUp (s : State) : (enterUp s).link = s.link.entered s.settings := by rw [enterUp_frame]

theorem enterUp_ev (s : State) : (enterUp s).ev = s.ev.raise .linkUp := by rw [enterUp_frame]

theorem enterUp_settings (s : State) : (enterUp s).settings = s.settings := by rw [enterUp_frame]

theorem enterUp_poised (h : s.poised) : (enterUp s).poised :=
  h.of_eq (by rw [enterUp_frame]) (by rw [enterUp_frame]) (by rw [enterUp_frame]; rfl)

theorem enterUp_lookup (id : StreamId) : (enterUp s).lookup id = s.lookup id := enterUp_kept.lookup id

theorem enterUp_sinkEntry (h : s.sink? i = some k) : (enterUp s).entry i = s.entry i := by
  rw [enterUp_upSweep]
  refine upSweep_other (s := raise .linkUp (modLink (fun l => l.entered s.settings) s)) fun c hc => ?_
  have none := source?_of_sink? h
  rw [show State.source? (raise .linkUp (modLink (fun l => l.entered s.settings) s)) i = s.source? i from rfl, none] at hc
  cases hc

theorem counted_poised (h : s.calm = true) : s.counted.poised := (still_poised (calm_still h)).of_eq rfl rfl rfl

/-- A link just entered into UP has its silence timer restarted by the next frame where it stands (R86). -/
theorem tookFrame_enterUp (s : State) : (enterUp s).tookFrame = enterUp s.counted := by
  have link := enterUp_linkUp s
  have settings := enterUp_settings s
  rw [State.counted, enterUp_modCounters]
  generalize enterUp s = u at link settings ⊢
  have silence : u.link.silenceTimer = some u.settings.silenceLimit := by rw [link, settings]; rfl
  simp only [State.tookFrame, modCounters, modLink, ← silence]

theorem helloInTraining_wrong {version : Byte} (h : version ≠ 1#8) (heard : Bool) :
    helloInTraining version heard s = wrongVersion s := by
  have h' : version ≠ Config.linkVersion := h
  unfold helloInTraining
  rw [if_pos h']

theorem helloInTraining_clear : helloInTraining 1#8 false s =
    modLink (fun l => { l with heard := true, helloDue := l.helloDue || !s.link.heard }) s := by
  have right : ¬ (1#8 : Byte) ≠ Config.linkVersion := by decide
  unfold helloInTraining
  rw [if_neg right]
  cases first : s.link.heard with
  | true => simp [modLink]
  | false => simp [modLink]

theorem helloInTraining_set : helloInTraining 1#8 true s = enterUp (modLink (fun l => { l with heard := true }) s) := by
  have right : ¬ (1#8 : Byte) ≠ Config.linkVersion := by decide
  unfold helloInTraining
  rw [if_neg right]
  exact if_pos rfl

/-- Settles O27: the three HELLOs that TRAINING can receive. -/
theorem helloInTraining_outcome : Obligations.HelloInTraining := by
  unfold Obligations.HelloInTraining
  intro s version heard calm training
  have still := calm_still calm
  have run := exec_hello_training calm training version heard
  refine ⟨fun other => ?wrong, fun same clear => ?clear, fun same set => ?enters⟩
  case wrong =>
    rw [run, helloInTraining_wrong other]
    exact congrArg Host.Outcome.next (finish_of_link still rfl Iff.rfl)
  case clear =>
    subst same clear
    rw [run, helloInTraining_clear]
    exact congrArg Host.Outcome.next (finish_of_link still rfl Iff.rfl)
  case enters =>
    subst same set
    rw [helloInTraining_set] at run
    generalize hw : modLink (fun l => { l with heard := true }) s.counted = w at run
    have poised : w.poised := by
      rw [← hw]
      exact (counted_poised calm).of_eq rfl rfl rfl
    have link := enterUp_linkUp w
    have ev := enterUp_ev w
    have poised' := enterUp_poised poised
    have streams : ∀ i c, s.windowsValid = true → s.source? i = some c → _ := fun i c valid ctx =>
      enterUp_streams (s := w) (i := i) (c := c) (by rw [← hw]; exact valid) (by rw [← hw]; exact ctx)
    have entry : ∀ i, w.entry i = s.entry i := fun i => by rw [← hw]; rfl
    have settings : w.settings = s.settings := by rw [← hw]; rfl
    generalize enterUp w = z at run link ev poised' streams
    refine ⟨_, run, ?_, ?_, fun i c valid ctx => ?_⟩
    · rw [finish_link poised'.1, link, ← hw]
      rfl
    · exact finish_caused_of_poised poised' rfl rfl (caused_of_raise ev)
    · obtain ⟨opens, resumes, stays⟩ := streams i c valid ctx
      rw [entry, settings] at opens
      rw [entry, settings] at resumes
      rw [entry] at stays
      refine ⟨fun pending => ?_, fun suspended => ?_, fun a b => (finish_entry poised'.1 i).trans (stays a b)⟩
      · obtain ⟨opened, slot⟩ := opens pending
        refine ⟨c.openingNow (c.openReason.getD .new) s.settings.controlTimeout, ?_, rfl, rfl, rfl, rfl, ?_,
          fun r reason => ?_⟩
        · rw [finish_source? poised'.1, State.source?, opened]
        · rw [finish_entry poised'.1, opened]
        · rw [finish_ctlSlot poised'.1, slot, reason]
          rfl
      · obtain ⟨resumed, slot⟩ := resumes suspended
        exact ⟨(finish_source? poised'.1 i).trans resumed, (finish_ctlSlot poised'.1 _).trans slot⟩

end Sys2Proof.Machine
end

section
/-! SUPPORT. The link frames in UP, and a stream frame as the first frame after the entry into UP (R82, R84 to R86, R88, R124,
R129, R139). -/

namespace Sys2Proof.Machine

variable {s t u w : State} {i j : WinIdx} {id x : StreamId} {epoch : Epoch} {b : Body} {c d : SourceCtx} {k : SinkCtx}

/-! ### HELLO in UP -/

theorem helloInUp_wrong {version : Byte} (h : version ≠ 1#8) (heard : Bool) : helloInUp version heard s = wrongVersion s := by
  have h' : version ≠ Config.linkVersion := h
  unfold helloInUp
  rw [if_pos h']

theorem helloInUp_set : helloInUp 1#8 true s = modLink (fun l => { l with heard := true }) (restartSilence s) := by
  have right : ¬ (1#8 : Byte) ≠ Config.linkVersion := by decide
  unfold helloInUp
  rw [if_neg right]
  exact if_pos rfl

theorem helloInUp_clear : helloInUp 1#8 false s = dropLink s := by
  have right : ¬ (1#8 : Byte) ≠ Config.linkVersion := by decide
  unfold helloInUp
  rw [if_neg right]
  exact if_neg Bool.false_ne_true

/-! ### The first stream frame -/

/-- A stream that the lookup does not find there has another identifier. -/
theorem stream_ne_of_lookup (hv : s.windowsValid = true) (he : (s.entry i).enabled = true) (hl : s.lookup id ≠ some i) :
    (s.entry i).stream ≠ id := by
  intro same
  have found : (s.lookup id).isSome = true := by
    unfold State.lookup
    rw [List.find?_isSome]
    exact ⟨i, mem_allWindows i, by simp [he, same]⟩
  obtain ⟨j, hj⟩ := Option.isSome_iff_exists.mp found
  obtain ⟨enabled, stream⟩ := lookup_some hj
  have ne : j ≠ i := fun h => hl (h ▸ hj)
  exact apart_of_windowsValid hv he j ne enabled (stream.trans same.symm)

theorem exec_stream_settled (h : s.settled = true) (hl : s.link.state = .up)
    (hf : (Frame.stream id epoch b).formatOk = true) :
    exec (frameCommand (.stream id epoch b)) s = .next (finish (dispatch id epoch b s.tookFrame)) := by
  have still : internalStep s = none := Option.isNone_iff_eq_none.mp h
  rw [exec_frameCommand]
  unfold received outside
  rw [settle_of_settled still]
  unfold whenReceiving deliver
  rw [if_neg (by simp [hl]), if_pos hf, validFrame_stream_up hl]

/-- An OPEN that begins a new pairing (R124). -/
theorem openAtSink_fresh {length : Word} (hl : s.lookup id = some i) (hc : s.sink? i = some k)
    (hs : length = (s.entry i).length) (hf : ¬ (epoch = k.epoch ∧ k.state = .seeding)) :
    openAtSink id epoch length s = newPairing i epoch s := by
  simp only [openAtSink, hl, hc, ne_eq, hs, not_true_eq_false, if_false]
  rw [if_neg hf]

/-- What a first stream frame leaves of the streams it does not name (R84, R112). -/
theorem firstFrame_others (valid : s.windowsValid = true) (other : s.lookup id ≠ some i) (ctx : s.source? i = some c)
    (h : OneStream id (enterUp s.counted) u) (rests : u.accessRests) :
    (c.state = .pending → ∀ r, c.openReason = some r → (finish u).ctlSlot (s.entry i).stream = some
        { epoch := c.epoch + 1#8, body := .openReq (s.entry i).length r })
    ∧ (c.state = .suspended → (finish u).source? i = some { c with
        state := .resuming, triesLeft := 2, ctlTimer := some s.settings.controlTimeout }
        ∧ (finish u).ctlSlot (s.entry i).stream = some { epoch := c.epoch, body := .reopen c.oldest c.nextSeq })
    ∧ (c.state ≠ .pending → c.state ≠ .suspended → (finish u).entry i = s.entry i) := by
  obtain ⟨opens, resumes, stays⟩ := enterUp_streams (s := s.counted) valid ctx
  have lookup : (enterUp s.counted).lookup id = s.lookup id := enterUp_lookup id
  have entry := h.entries i (by rw [lookup]; exact other)
  have slot := (h.slots _ (stream_ne_of_lookup valid (enabled_of_source ctx) other)).1
  refine ⟨fun pending r reason => ?_, fun suspended => ⟨?_, ?_⟩, fun a b => ?_⟩
  · rw [finish_ctlSlot rests, slot, ← Option.getD_some (a := r) (b := .new), ← reason]
    exact (opens pending).2
  · rw [finish_source? rests, source?_congr entry]
    exact (resumes suspended).1
  · rw [finish_ctlSlot rests, slot]
    exact (resumes suspended).2
  · rw [finish_entry rests, entry]
    exact stays a b

/-- Settles O28: HELLO and KEEPALIVE in UP, and the entry into UP followed by the dispatch of the frame. -/
theorem linkFramesInUp : Obligations.LinkFramesInUp := by
  unfold Obligations.LinkFramesInUp
  refine ⟨fun s version heard calm up => ⟨fun other => ?wrong, fun same set => ?set, fun same clear enabled ready => ?clear⟩,
    fun s calm => ⟨fun up => ?keepalive, fun training => ?keepaliveEnters⟩,
    fun s id epoch b calm training format => ⟨fun settled => ?sameEffect, ?enters⟩,
    fun s id epoch calm training => ⟨fun i c found ctx => ⟨fun r fresh => ?opens, fun o n suspended same after before => ?reopens⟩,
      fun r unfound format => ?record⟩⟩
  case wrong =>
    rw [exec_hello_up calm up, helloInUp_wrong other]
    exact congrArg Host.Outcome.next (finish_of_link (calm_still calm) rfl Iff.rfl)
  case set =>
    subst same set
    rw [exec_hello_up calm up, helloInUp_set]
    exact congrArg Host.Outcome.next (finish_of_link (calm_still calm) rfl Iff.rfl)
  case clear =>
    subst same clear
    have run := exec_hello_up calm up 1#8 false
    rw [helloInUp_clear] at run
    have link := dropLink_link (s := s.counted) up enabled ready
    have sched := dropLink_sched (s := s.counted) up
    have rests := dropLink_accessRests (s := s.counted) up (counted_poised calm).1
    generalize dropLink s.counted = w at run link sched rests
    exact ⟨_, run, (finish_link rests).trans link, (finish_sched rests).trans sched⟩
  case keepalive =>
    change Host.Outcome.next (received .keepalive s) = _
    rw [received_calm calm (by simp [up]) rfl, validFrame_keepalive_up up]
    exact congrArg Host.Outcome.next (finish_of_link (calm_still calm) rfl Iff.rfl)
  case keepaliveEnters =>
    have run : exec .keepaliveFrame s = .next (finish (enterUp s.counted)) := by
      change Host.Outcome.next (received .keepalive s) = _
      rw [received_calm calm (by simp [training]) rfl, validFrame_keepalive_training training]
    have link := enterUp_linkUp s.counted
    have ev := enterUp_ev s.counted
    have poised := enterUp_poised (counted_poised calm)
    generalize enterUp s.counted = w at run link ev poised
    exact ⟨_, run, (finish_link poised.1).trans link, finish_caused_of_poised poised rfl rfl (caused_of_raise ev)⟩
  case sameEffect =>
    rw [exec_stream_training calm training format, exec_stream_settled settled (by rw [enterUp_linkUp]; rfl) format,
      tookFrame_enterUp]
  case enters =>
    have run := exec_stream_training (id := id) (epoch := epoch) (b := b) calm training format
    have link := enterUp_linkUp s.counted
    have ev := enterUp_ev s.counted
    have poised := enterUp_poised (counted_poised calm)
    have one := dispatch_oneStream (s := enterUp s.counted) (id := id) epoch b
    have others : ∀ i c, s.windowsValid = true → s.lookup id ≠ some i → s.source? i = some c → _ :=
      fun i c valid other ctx => firstFrame_others valid other ctx one (one.rests poised.1)
    generalize dispatch id epoch b (enterUp s.counted) = u at run one others
    have rests := one.rests poised.1
    have stale := one.stale
    have grows := one.grows
    refine ⟨_, run, ?_, ?_, others⟩
    · exact finish_caused_of_poised poised rfl grows.cond (grows.caused (caused_of_raise ev))
    · rw [finish_link rests, stale, link]
      rfl
  case opens =>
    have run := exec_stream_training (id := id) (epoch := epoch) (b := .openReq (s.entry i).length r) calm training rfl
    have entry := enterUp_sinkEntry (s := s.counted) ctx
    have lookup : (enterUp s.counted).lookup id = some i := (enterUp_lookup id).trans found
    have up : (enterUp s.counted).link.state = .up := by rw [enterUp_linkUp]; rfl
    have rests := (enterUp_poised (counted_poised calm)).1
    have entry' : (enterUp s.counted).entry i = s.entry i := entry
    generalize enterUp s.counted = w at run lookup up rests entry'
    have ctx' : w.sink? i = some c := (sink?_congr entry').trans ctx
    have paired : dispatch id epoch (.openReq (s.entry i).length r) w = newPairing i epoch w :=
      openAtSink_fresh lookup ctx' (by rw [entry']) fresh
    have stream : (w.entry i).stream = id := (lookup_some lookup).2
    obtain ⟨a, eq⟩ := newPairing_eq (epoch := epoch) ctx' up
    rw [paired, eq, stream] at run
    generalize hu : setCtlSlot id (some { epoch := epoch, body := Body.openAccept })
      (setAckFlag id none { w.setRole i (.sink (c.paired epoch)) with apply := a }) = u at run
    have rests' : u.accessRests := accessRests_of_eq rests (by rw [← hu]; rfl) (by rw [← hu]; rfl)
    refine ⟨_, run, ?_, ?_⟩
    · rw [finish_sink? rests', ← hu]
      exact (setRole_sink? w i i _).trans (if_pos rfl)
    · rw [finish_ctlSlot rests', ← hu, setCtlSlot_ctlSlot, if_pos rfl]
  case reopens =>
    have run := exec_stream_training (id := id) (epoch := epoch) (b := .reopen o n) calm training rfl
    have entry' : (enterUp s.counted).entry i = s.entry i := enterUp_sinkEntry (s := s.counted) ctx
    have lookup : (enterUp s.counted).lookup id = some i := (enterUp_lookup id).trans found
    have up : (enterUp s.counted).link.state = .up := by rw [enterUp_linkUp]; rfl
    have rests := (enterUp_poised (counted_poised calm)).1
    generalize enterUp s.counted = w at run lookup up rests entry'
    have ctx' : w.sink? i = some c := (sink?_congr entry').trans ctx
    have continues : dispatch id epoch (.reopen o n) w = giveContinue i c w := by
      refine (reopenAtSink_of_sink lookup ctx' o n).trans (if_pos ⟨?_, same, after, before⟩)
      rw [suspended]
      decide
    have stream : (w.entry i).stream = id := (lookup_some lookup).2
    obtain ⟨a, eq⟩ := giveContinue_eq ctx' up
    rw [continues, eq, stream, same] at run
    generalize hu : setAckFlag id none { State.setRole (setCtlSlot id
      (some { epoch := epoch, body := .reopenReply .continues c.appliedPoint }) w) i (.sink c.continued) with apply := a } =
      u at run
    have rests' : u.accessRests := accessRests_of_eq rests (by rw [← hu]; rfl) (by rw [← hu]; rfl)
    refine ⟨_, run, ?_, ?_⟩
    · rw [finish_ctlSlot rests', ← hu, setAckFlag_ctlSlot]
      exact (setCtlSlot_ctlSlot w id id _).trans (if_pos rfl)
    · rw [finish_sink? rests', ← hu]
      refine ((setRole_sink? _ i i _).trans (if_pos rfl)).trans ?_
      simp only [SinkCtx.continued, suspended, if_true]
  case record =>
    have run := exec_stream_training (id := id) (epoch := epoch) (b := .record r) calm training format
    have lookup : (enterUp s.counted).lookup id = none := (enterUp_lookup id).trans unfound
    have up : (enterUp s.counted).link.state = .up := by rw [enterUp_linkUp]; rfl
    have rests := (enterUp_poised (counted_poised calm)).1
    generalize enterUp s.counted = w at run lookup up rests
    have turned : dispatch id epoch (.record r) w = setCtlSlot id (some { epoch := epoch, body := .close .notOpen }) w :=
      (recordAtSink_of_no_sink (promotedFor_of_no_window lookup) (fun i c h => by rw [lookup] at h; cases h) r).trans
        (place_of_up up _ _ _)
    rw [turned] at run
    have rests' : State.accessRests (setCtlSlot id (some { epoch := epoch, body := .close .notOpen }) w) :=
      accessRests_of_eq rests rfl rfl
    exact ⟨_, run, (finish_ctlSlot rests' id).trans ((setCtlSlot_ctlSlot w id id _).trans (if_pos rfl))⟩

end Sys2Proof.Machine
end

section
/-! SUPPORT. The commands of one stream: what they touch, at the end of the event too (R94, R174). -/

namespace Sys2Proof.Machine

variable {s t u w : State} {i j : WinIdx} {id x : StreamId} {c d : SourceCtx} {k : SinkCtx}

/-! ### Operations -/

theorem openSource_told (c : SourceCtx) : Told i s (openSource i c s).1 := by
  unfold openSource
  split
  · exact openOrPend_told _
  · exact Told.refl i s

theorem closeSource_told (c : SourceCtx) : Told i s (closeSource i c s).1 := by
  unfold closeSource
  split
  case h_1 => exact Told.refl i s
  case h_2 | h_3 | h_4 | h_5 => exact enterClosed_told
  all_goals exact enterClosing_told

theorem reseedSource_told (c : SourceCtx) : Told i s (reseedSource i c s).1 := by
  unfold reseedSource
  split
  case h_1 | h_2 | h_3 | h_4 | h_5 => exact reseed_told
  all_goals exact Told.refl i s

theorem fenceSource_told (c : SourceCtx) (tag : Tag) : Told i s (fenceSource i c tag s).1 := by
  unfold fenceSource
  split
  · exact Told.refl i s
  · split
    · exact Told.refl i s
    · split
      · exact Told.refl i s
      · exact modSource_told _

theorem closeSink_told (c : SinkCtx) : Told i s (closeSink i c s).1 := by
  unfold closeSink
  split
  · exact Told.refl i s
  · exact (closeSinkCtx_told .localClose).trans (place_told _ _ _)

/-- Replacing the role of an enabled entry by an enabled one, and its PROMOTION record, for any apply engine. -/
theorem setPromoted_streamLocal (h : (s.entry i).enabled = true) (c : SourceCtx) (p : Option Promotion)
    (a : ApplyEngine) : StreamLocal i s
      ({ s with apply := a }.setEntry i { s.entry i with role := .source c, promotion := p }) := by
  constructor <;> try rfl
  · exact ⟨rfl, rfl, rfl⟩
  · exact BitVec.and_self
  · exact BitVec.and_self
  · exact fun j hj => setEntry_entry_ne _ _ _ hj
  · rw [setEntry_entry_same]
    exact ⟨rfl, rfl, rfl, rfl, rfl, rfl, rfl, h.symm⟩
  · exact fun x _ => ⟨rfl, rfl⟩

theorem promote_streamLocal (h : s.sink? i = some k) : StreamLocal i s (promote i k s) ∧ Told i s (promote i k s) := by
  obtain ⟨a, eq⟩ := promote_eq (s := s) (i := i) k
  have entered := setPromoted_streamLocal (s := setAckFlag (s.entry i).stream none s) (i := i) (enabled_of_sink h)
    (newSource k.epoch) (some { epoch := k.epoch, lastApplied := k.expected - 1#16,
                                discarded := (k.held.filter fun h : Held => !h.underOp).length }) a
  have placed := place_sourceLocal_of (s := { setAckFlag (s.entry i).stream none s with apply := a }.setEntry i
    { s.entry i with
      role := .source (newSource k.epoch)
      promotion := some { epoch := k.epoch, lastApplied := k.expected - 1#16,
                          discarded := (k.held.filter fun h : Held => !h.underOp).length } })
    (i := i) (id := (s.entry i).stream) (by rw [setEntry_entry_same]) k.epoch
    (.promoted (k.expected - 1#16) (BitVec.ofNat 8 (k.held.filter (!·.underOp)).length))
  rw [eq]
  refine ⟨(((setAckFlag_sinkLocal none).toStreamLocal.trans entered).trans placed.toStreamLocal).trans
    (noticeWin_sourceLocal i).toStreamLocal, ?_⟩
  exact ((entered.told rfl rfl fun r => accessRests_of_eq r rfl rfl : Told i (setAckFlag (s.entry i).stream none s) _).trans
    (place_told _ _ _)).trans noticeWin_told |> (setAckFlag_told _ _).trans

/-- A stream operation at the window that the lookup finds. -/
theorem streamOp_oneStream (op : StreamOp) (argument : Byte) (hl : s.lookup id = some i) :
    OneStream id s (streamOp op argument i s).1 := by
  unfold streamOp
  split
  · exact (openSource_sourceLocal i _).toStreamLocal.oneStream (openSource_told _) hl
  · exact (closeSource_sourceLocal i _).toStreamLocal.oneStream (closeSource_told _) hl
  · exact (reseedSource_sourceLocal i _).toStreamLocal.oneStream (reseedSource_told _) hl
  · exact (fenceSource_sourceLocal i _ _).toStreamLocal.oneStream (fenceSource_told _ _) hl
  · exact (closeSink_sinkLocal _).toStreamLocal.oneStream (closeSink_told _) hl
  · rename_i c _ role
    unfold promoteSink
    split
    · exact OneStream.refl id s
    · split
      · exact OneStream.refl id s
      · obtain ⟨loc, told⟩ := promote_streamLocal (sink?_eq_some.mpr role)
        exact loc.oneStream told hl
  · exact OneStream.refl id s

/-! ### Timers -/

theorem atStream_oneStream {f : WinIdx → State → State}
    (h : ∀ i, StreamLocal i s (f i s) ∧ Told i s (f i s)) : OneStream id s (atStream id f s) := by
  unfold atStream
  split
  · rename_i i found
    obtain ⟨loc, told⟩ := h i
    exact loc.oneStream told found
  · exact OneStream.refl id s

theorem retxExpired_sourceLocal (c : SourceCtx) : SourceLocal i s (retxExpired i c s) := by
  have tries : ∀ f : SourceCtx → SourceCtx, SourceLocal i s
      (if c.retryCount < s.settings.retxLimit then s.modSource i f else faultStream i .noProgress s) := fun f => by
    split
    · exact modSource_sourceLocal _
    · exact faultStream_sourceLocal _
  unfold retxExpired
  split
  · exact tries _
  · exact tries _
  · exact modSource_sourceLocal _

theorem ctlAgain_sourceLocal (c : SourceCtx) {f : State → State} (h : SourceLocal i s (f s)) :
    SourceLocal i s (ctlAgain i c f s) := by
  unfold ctlAgain
  split
  · exact (modSource_sourceLocal _).trans (placeControl_sourceLocal c)
  · exact h

theorem ctlExpired_sourceLocal (c : SourceCtx) : SourceLocal i s (ctlExpired i c s) := by
  unfold ctlExpired
  split
  · exact ctlAgain_sourceLocal c (faultStream_sourceLocal _)
  · exact ctlAgain_sourceLocal c (faultStream_sourceLocal _)
  · exact ctlAgain_sourceLocal c enterClosed_sourceLocal
  · exact modSource_sourceLocal _

theorem expireRetx_touches (i : WinIdx) : StreamLocal i s (expireRetx i s) ∧ Told i s (expireRetx i s) := by
  unfold expireRetx
  split
  · split
    · exact ⟨(retxExpired_sourceLocal _).toStreamLocal, retxExpired_told _⟩
    · exact ⟨StreamLocal.refl i s, Told.refl i s⟩
  · exact ⟨StreamLocal.refl i s, Told.refl i s⟩

theorem expireControl_touches (i : WinIdx) : StreamLocal i s (expireControl i s) ∧ Told i s (expireControl i s) := by
  unfold expireControl
  split
  · split
    · exact ⟨(ctlExpired_sourceLocal _).toStreamLocal, ctlExpired_told _⟩
    · exact ⟨StreamLocal.refl i s, Told.refl i s⟩
  · exact ⟨StreamLocal.refl i s, Told.refl i s⟩

theorem expireAck_touches (i : WinIdx) : StreamLocal i s (expireAck i s) ∧ Told i s (expireAck i s) := by
  unfold expireAck
  split
  · split
    · exact ⟨(ackExpired_sinkLocal _).toStreamLocal, ackExpired_told _⟩
    · exact ⟨StreamLocal.refl i s, Told.refl i s⟩
  · exact ⟨StreamLocal.refl i s, Told.refl i s⟩

/-! ### The commands -/

/-- What O4 says of an event: one stream, and of the link its counters and its silence timer. -/
structure StreamEvent (id : StreamId) (s t : State) : Prop where
  entries : ∀ j, s.lookup id ≠ some j → t.entry j = s.entry j
  others : ∀ x, x ≠ id → t.ctlSlot x = s.ctlSlot x ∧ t.ackFlag x = s.ackFlag x ∧ t.noticed x = s.noticed x
  bus : t.bus = s.bus
  arb : t.arb = s.arb
  sched : t.sched = { s.sched with ctl := t.sched.ctl, ack := t.sched.ack }
  link : t.link = { s.link with counters := t.link.counters, silenceTimer := t.link.silenceTimer }
  settings : t.settings = s.settings
  unmasked : t.ev.unmasked = s.ev.unmasked
  tickLength : t.tickLength = s.tickLength
  rests : s.accessRests → t.accessRests

theorem OneStream.event (h : OneStream id s t) : StreamEvent id s t :=
  ⟨h.entries, fun x hx => ⟨(h.slots x hx).1, (h.slots x hx).2, h.notice x hx⟩, h.bus, h.arb, h.sched, by rw [h.stale],
    h.settings, h.grows.unmasked, h.tickLength, h.rests⟩

/-- The event may begin with a change of the link's counters and its silence timer. -/
theorem StreamEvent.after (h : StreamEvent id w t) (hw : w = { s with link := w.link })
    (hl : w.link = { s.link with counters := w.link.counters, silenceTimer := w.link.silenceTimer }) :
    StreamEvent id s t := by
  have rests : s.accessRests → w.accessRests := fun r => accessRests_of_eq r (by rw [hw]) (by rw [hw])
  have windows : w.windows = s.windows := by rw [hw]
  have sched : w.sched = s.sched := by rw [hw]
  have ev : w.ev = s.ev := by rw [hw]
  refine ⟨fun j hj => (h.entries j (by rw [lookup_of_windows windows]; exact hj)).trans (by simp [State.entry, windows]),
    fun x hx => ?_, h.bus.trans (by rw [hw]), h.arb.trans (by rw [hw]), by rw [h.sched, sched], by rw [h.link, hl],
    h.settings.trans (by rw [hw]), h.unmasked.trans (by rw [ev]), h.tickLength.trans (by rw [hw]),
    fun r => h.rests (rests r)⟩
  obtain ⟨ctl, ack, notice⟩ := h.others x hx
  refine ⟨ctl.trans ?_, ack.trans ?_, notice.trans ?_⟩
  · simp [State.ctlSlot, sched]
  · simp [State.ackFlag, sched]
  · simp [State.noticed, ev]

/-- It may end with the port's answer. -/
theorem StreamEvent.port (h : StreamEvent id s t) (p : Port) : StreamEvent id s { t with port := p } :=
  ⟨h.entries, h.others, h.bus, h.arb, h.sched, h.link, h.settings, h.unmasked, h.tickLength,
    fun r => accessRests_of_eq (h.rests r) rfl rfl⟩

theorem finish_unmasked (h : s.accessRests) : (finish s).ev.unmasked = s.ev.unmasked := by
  have same : takePresented s = s := takePresented_of_busy h
  rcases finish_ev s with e | e | ⟨now, e, _⟩
  · rw [e]
  · rw [e, same]
  · rw [e, same]
    rfl

theorem StreamEvent.finish (h : StreamEvent id s t) (hs : s.accessRests) : StreamEvent id s (finish t) := by
  have rests := h.rests hs
  refine ⟨fun j hj => (finish_entry rests j).trans (h.entries j hj), fun x hx => ?_, (finish_bus rests).trans h.bus,
    (finish_arb rests).trans h.arb, ?_, ?_, (finish_settings rests).trans h.settings,
    (finish_unmasked rests).trans h.unmasked, (finish_tickLength rests).trans h.tickLength,
    fun _ => accessRests_of_eq rests (finish_acc rests) (finish_bus rests)⟩
  · obtain ⟨ctl, ack, notice⟩ := h.others x hx
    refine ⟨(finish_ctlSlot rests x).trans ctl, (finish_ackFlag rests x).trans ack, ?_⟩
    rw [← notice]
    simp only [State.noticed, finish_notice rests]
  · rw [finish_sched rests]
    exact h.sched
  · rw [finish_link rests]
    exact h.link

/-- The commands of one stream are frames, timers and operations. -/
theorem concerns_cases {cmd : Instr} (h : concerns id cmd = true) :
    (∃ epoch b, ∀ s, exec cmd s = .next (received (.stream id epoch b) s))
    ∨ (∃ f, (f = expireRetx ∨ f = expireControl ∨ f = expireAck) ∧ ∀ s, exec cmd s = .next (outside (atStream id f) s))
    ∨ ∃ op arg n, ∀ s, exec cmd s = .next (manage (streamTransaction (id.setWidth 8) (StreamOp.code op) arg n) s) := by
  cases cmd <;> simp only [concerns, beq_iff_eq, Bool.false_eq_true] at h <;> subst h
  case openFrame => exact .inl ⟨_, _, fun _ => rfl⟩
  case openAcceptFrame => exact .inl ⟨_, _, fun _ => rfl⟩
  case openRefuseFrame => exact .inl ⟨_, _, fun _ => rfl⟩
  case reopenFrame => exact .inl ⟨_, _, fun _ => rfl⟩
  case reopenReplyFrame => exact .inl ⟨_, _, fun _ => rfl⟩
  case closeFrameAtSource => exact .inl ⟨_, _, fun _ => rfl⟩
  case closeFrameAtSink => exact .inl ⟨_, _, fun _ => rfl⟩
  case closeAckFrame => exact .inl ⟨_, _, fun _ => rfl⟩
  case promotedFrame => exact .inl ⟨_, _, fun _ => rfl⟩
  case recordFrame => exact .inl ⟨_, _, fun _ => rfl⟩
  case ackFrame => exact .inl ⟨_, _, fun _ => rfl⟩
  case nakFrame => exact .inl ⟨_, _, fun _ => rfl⟩
  case retransmitTimerExpiry => exact .inr (.inl ⟨expireRetx, .inl rfl, fun _ => rfl⟩)
  case controlTimerExpiry => exact .inr (.inl ⟨expireControl, .inr (.inl rfl), fun _ => rfl⟩)
  case ackTimerExpiry => exact .inr (.inl ⟨expireAck, .inr (.inr rfl), fun _ => rfl⟩)
  case openOperation => exact .inr (.inr ⟨.openOp, _, _, fun _ => rfl⟩)
  case closeOperation => exact .inr (.inr ⟨.close, _, _, fun _ => rfl⟩)
  case sinkCloseOperation => exact .inr (.inr ⟨.close, _, _, fun _ => rfl⟩)
  case reseedOperation => exact .inr (.inr ⟨.reseed, _, _, fun _ => rfl⟩)
  case fenceOperation => exact .inr (.inr ⟨.fence, _, _, fun _ => rfl⟩)
  case promoteOperation => exact .inr (.inr ⟨.promote, _, _, fun _ => rfl⟩)

theorem received_event (h : s.calm = true) (hl : s.link.state ≠ .training) (epoch : Epoch) (b : Body) :
    StreamEvent id s (received (.stream id epoch b) s) := by
  have rests := still_accessRests (calm_still h)
  cases state : s.link.state with
  | down =>
      rw [received_of_down h state]
      exact (OneStream.refl id s).event
  | training => exact absurd state hl
  | up =>
      unfold received
      rw [outside_of_calm h]
      refine StreamEvent.finish ?_ rests
      unfold whenReceiving deliver
      rw [if_neg (by simp [state])]
      split
      · rw [validFrame_stream_up state]
        exact (dispatch_oneStream epoch b).event.after rfl rfl
      · exact ⟨fun _ _ => rfl, fun _ _ => ⟨rfl, rfl, rfl⟩, rfl, rfl, rfl, rfl, rfl, rfl, rfl,
          fun r => accessRests_of_eq r rfl rfl⟩

theorem streamTransaction_event (op : StreamOp) (arg : Byte) (n : Nat) :
    StreamEvent id s (streamTransaction (id.setWidth 8) op.code arg n s) := by
  by_cases long : 3 < n
  · rw [streamTransaction_executes long]
    refine StreamEvent.port ?_ _
    cases found : s.lookup id with
    | some i =>
        rw [streamCmd_of_lookup found]
        exact (streamOp_oneStream op arg found).event
    | none =>
        rw [streamCmd_of_none found]
        exact (OneStream.refl id s).event
  · unfold streamTransaction
    rw [transact_early (by omega)]
    exact (OneStream.refl id s).event.port _

/-- Settles O4: frames, timers and operations each touch one stream, and so does the end of the event. -/
theorem streamEventsTouchOneStream : Obligations.StreamEventsTouchOneStream := by
  unfold Obligations.StreamEventsTouchOneStream
  intro cmd id s t named quiet notTraining run
  have calm := quiet_calm quiet
  have rests := still_accessRests (quiet_still quiet)
  have event : StreamEvent id s t := by
    rcases concerns_cases named with ⟨epoch, b, eq⟩ | ⟨f, timer, eq⟩ | ⟨op, arg, n, eq⟩
    · rw [eq] at run
      cases run
      exact received_event calm notTraining epoch b
    · rw [eq, outside_of_calm calm] at run
      cases run
      refine StreamEvent.finish (OneStream.event (atStream_oneStream fun i => ?_)) rests
      rcases timer with rfl | rfl | rfl
      · exact expireRetx_touches i
      · exact expireControl_touches i
      · exact expireAck_touches i
    · rw [eq, manage_of_quiet quiet] at run
      cases run
      exact (streamTransaction_event op arg n).finish rests
  obtain ⟨entries, others, bus, arb, sched, link, settings, unmasked, tickLength, _⟩ := event
  exact ⟨entries, others, bus, arb, sched, link, settings, unmasked, tickLength⟩

end Sys2Proof.Machine
end

section
/-! SUPPORT. The pin reset: the values of every block, and the event of the release (R20, R177, R178, R179). -/

namespace Sys2Proof.Machine

variable {s t u : State} {a : Access}

theorem reset_enabled (i : WinIdx) : (State.reset.entry i).enabled = false := by
  rw [reset_entry]
  rfl

/-- The part at the release of RESET_N, before its event (R178). -/
theorem pinReset_windows (low : Bool) (s : State) : (pinReset low s).windows = State.reset.windows := rfl

theorem reset_lookup (id : StreamId) : State.reset.lookup id = none := by
  unfold State.lookup
  rw [List.find?_eq_none]
  intro i _
  simp [reset_enabled]

theorem reset_decode (addr : Word) : State.reset.decode addr = none := by
  unfold State.decode
  rw [List.find?_eq_none]
  intro i _
  simp [reset_enabled]

theorem reset_applyHead (id : StreamId) : State.reset.applyHead id = none := by
  unfold State.applyHead
  rw [reset_lookup]

theorem pinReset_applyRests (low : Bool) (s : State) : (pinReset low s).applyRests = true := by
  have heads : ∀ id, (pinReset low s).applyHead id = none := fun id =>
    (applyHead_of_windows (pinReset_windows low s) id).trans (reset_applyHead id)
  have none : nextServed (pinReset low s).apply.last (fun id => ((pinReset low s).applyHead id).isSome) = Option.none := by
    rw [nextServed_eq_none]
    intro id
    rw [heads]
    rfl
  unfold State.applyRests
  rw [none]
  simp

/-- The conditions of the reset values, whatever access the unit has taken: none of them holds (R154). -/
theorem pinReset_conditions {m : AccessUnit} (hm : m.resv = none)
    (hh : State.isHeld { pinReset false s with acc := m } = false) :
    State.conditions { pinReset false s with acc := m } = 0#13 := by
  generalize ht : ({ pinReset false s with acc := m } : State) = t at hh
  have free : t.freeCount = 256 := by
    have records : ∀ j, State.recordCount { pinReset false s with acc := m } j = State.reset.recordCount j := fun j =>
      recordCount_congr (source?_of_windows rfl j)
    rw [← ht]
    exact (freeCount_congr (s := State.reset) (t := { pinReset false s with acc := m }) records hm rfl).trans
      reset_freeCount
  have off : t.settings.linkEnable = false := by rw [← ht]; rfl
  have low : t.settings.journalLow = 32 := by rw [← ht]; rfl
  unfold State.conditions
  rw [free, low, off, hh]
  simp

/-- The event of the release ends with the reset values and the access unit as it has been given an access (R178). -/
theorem finish_pinReset_acc {m : AccessUnit} (hm : m.resv = none)
    (hh : State.isHeld { pinReset false s with acc := m } = false)
    (ha : State.accessRests { pinReset false s with acc := m }) :
    finish { pinReset false s with acc := m } = { pinReset false s with acc := m } := by
  rw [finish_of_settled rfl ha (.inr rfl) (pinReset_applyRests false s) rfl]
  refine judgeIfOver_of_eq ?_
  rw [pinReset_conditions hm hh]
  rfl

theorem exec_pinResetRelease (h : s.resetLow = true) : exec .pinResetRelease s = .next (finish (pinReset false s)) := by
  change Host.Outcome.next (if s.resetLow then finish (pinReset false s) else s) = _
  rw [if_pos h]

/-- The bus as the access unit has taken what was presented. -/
theorem finish_pinReset_presented (hp : s.bus.presented = some a) : finish (pinReset false s) =
    finish (accept a (pinReset false { s with bus := { s.bus with presented := none } })) :=
  finish_of_presented (s := pinReset false s) rfl rfl hp

theorem pinReset_decode (addr : Word) : (pinReset false s).decode addr = none :=
  (decode_of_windows (pinReset_windows false s) addr).trans (reset_decode addr)

theorem finish_pinReset_request (h : s.bus.presented = none) (a : Access) :
    finish (requestPort a none (pinReset false s)) = requestPort a none (pinReset false s) :=
  finish_pinReset_acc (m := { phase := .requesting a, resv := none, holdTimer := none }) rfl rfl (.inr h)

/-- The release takes the access presented, or rests (R178). -/
theorem finish_pinReset_lane (s : State) : (finish (pinReset false s)).txLane = .idle := by
  have idle : ∀ t : State, t.resetLow = false → t.sched.tx = none → t.txLane = .idle := fun t low tx => by
    unfold State.txLane
    rw [low, tx]
    rfl
  have low : (finish (pinReset false s)).resetLow = false := finish_kept.resetLow
  refine idle _ low ?_
  cases hp : s.bus.presented with
  | none => rw [finish_sched (s := pinReset false s) (.inr hp)]; rfl
  | some a =>
      rw [finish_pinReset_presented hp]
      cases form : a.formOk with
      | true =>
          rw [accept_of_no_window form (pinReset_decode _), finish_pinReset_request rfl]
          rfl
      | false =>
          rw [accept_of_malformed form, finish_sched (.inr rfl)]
          rfl

/-- Settles O6: every field of the reset state, and the events of the assertion and the release. -/
theorem pinReset_outcome : Obligations.PinReset := by
  unfold Obligations.PinReset
  have assert : ∀ s u : State, settle s = u → exec .pinResetAssert s = .next { State.reset with
      pending := u.pending, resetLow := true, bus := u.bus, freeReads := u.freeReads } := by
    rintro s u rfl
    rfl
  refine ⟨?values, assert, fun s calm => assert s s (settle_of_calm calm), fun s t run => ?silent,
    fun s low empty => ?release, fun s a low presented form => ?takes, fun s t low run => ?lane⟩
  case values =>
    refine ⟨fun i => reset_entry i, rfl, rfl, rfl, by decide, rfl, rfl, rfl, rfl, rfl, rfl, rfl, rfl, rfl, by decide, rfl,
      rfl⟩
  case silent =>
    rw [assert s _ rfl] at run
    cases run
    exact ⟨rfl, rfl⟩
  case release =>
    rw [exec_pinResetRelease low]
    exact congrArg Host.Outcome.next (finish_pinReset_acc (m := State.reset.acc) rfl rfl (.inr empty))
  case takes =>
    rw [exec_pinResetRelease low, finish_pinReset_presented presented, accept_of_no_window form (pinReset_decode _),
      finish_pinReset_request rfl]
    rfl
  case lane =>
    rw [exec_pinResetRelease low] at run
    cases run
    exact finish_pinReset_lane s

end Sys2Proof.Machine
end

section
/-! SUPPORT. The soft reset of every block in one event (R176), and the end of that event. -/

namespace Sys2Proof.Machine

variable {s : State} {a : Access} {i : WinIdx}

/-! ### The access unit -/

theorem softAccess_of_held (h : s.acc.phase = .waitSlots a i) : softAccess s = respond false [] s := by
  unfold softAccess
  rw [h]

theorem softAccess_of_requesting (h : s.acc.phase = .requesting a) :
    softAccess s = { s with acc := { s.acc with resv := none } } := by
  unfold softAccess
  rw [h]

theorem softAccess_of_granted {j : Option Journaled} (h : s.acc.phase = .granted a j) :
    softAccess s = { s with acc := { s.acc with phase := .granted a none, resv := none } } := by
  unfold softAccess
  rw [h]

theorem softAccess_of_idle (h : s.acc.phase = .idle) : softAccess s = { s with acc := { s.acc with resv := none } } := by
  unfold softAccess
  rw [h]

/-- Soft reset ends a held write, takes the reservation, and leaves what the master presents and what waits for the port. -/
theorem softAccess_cases (s : State) : softAccess s = { s with acc := (softAccess s).acc, bus := (softAccess s).bus }
    ∧ (softAccess s).acc.resv = none ∧ (softAccess s).bus.presented = s.bus.presented
    ∧ ∀ a, (softAccess s).acc.phase = .requesting a → s.acc.phase = .requesting a := by
  cases h : s.acc.phase with
  | idle => rw [softAccess_of_idle h]; exact ⟨rfl, rfl, rfl, fun a r => h.symm.trans r⟩
  | requesting a => rw [softAccess_of_requesting h]; exact ⟨rfl, rfl, rfl, fun b r => h.symm.trans r⟩
  | waitSlots a i => rw [softAccess_of_held h]; exact ⟨rfl, rfl, rfl, fun b r => by cases r⟩
  | granted a j => rw [softAccess_of_granted h]; exact ⟨rfl, rfl, rfl, fun b r => by cases r⟩

/-! ### The part after it -/

theorem softWindows_entry (i : WinIdx) : (softWindows s).entry i = (s.entry i).softReset :=
  mapEntries_entry Entry.softReset i

theorem softWindows_frame (s : State) : softWindows s = { s with windows := (softWindows s).windows } :=
  mapEntries_frame Entry.softReset s

/-- The part after the soft reset of every block, before the link tries to train. -/
def State.blocksReset (s : State) (u : State) : State :=
  { u with
    seed := s.seed.softReset, apply := s.apply.softReset, link := s.link.softReset, sched := s.sched.softReset
    ev := s.ev.softReset, port := { s.port with txn := none, resetDue := false }
    offers := { held := false, seed := false } }

theorem softReset_eq (s : State) : softReset s = tryTrain (s.blocksReset (softWindows (softAccess s))) := by
  unfold softReset
  obtain ⟨access, _⟩ := softAccess_cases s
  have sweep := softWindows_frame (softAccess s)
  generalize softAccess s = v at access sweep ⊢
  generalize softWindows v = u at sweep ⊢
  rw [sweep, access]
  rfl

theorem softReset_frame (s : State) : softReset s = { s with
    windows := (softReset s).windows, acc := (softAccess s).acc, bus := (softAccess s).bus
    seed := s.seed.softReset, apply := s.apply.softReset, link := (softReset s).link, sched := s.sched.softReset
    ev := s.ev.softReset, port := { s.port with txn := none, resetDue := false }
    offers := { held := false, seed := false } } := by
  obtain ⟨access, _⟩ := softAccess_cases s
  have sweep := softWindows_frame (softAccess s)
  rw [softReset_eq]
  generalize softAccess s = v at access sweep ⊢
  generalize softWindows v = u at sweep ⊢
  generalize trained : tryTrain (s.blocksReset u) = t
  have frame := tryTrain_frame (s.blocksReset u)
  rw [trained] at frame
  rw [frame, sweep, access]
  rfl

theorem tryTrain_entry (i : WinIdx) : (tryTrain s).entry i = s.entry i := by
  rw [tryTrain_frame]
  rfl

theorem softReset_entry (i : WinIdx) : (softReset s).entry i = (s.entry i).softReset := by
  have same : (softAccess s).entry i = s.entry i := by
    rw [(softAccess_cases s).1]
    rfl
  rw [softReset_eq, tryTrain_entry, ← same, ← softWindows_entry]
  rfl

theorem softReset_source? {c : SourceCtx} (h : s.source? i = some c) : (softReset s).source? i = some c.softReset := by
  rw [source?_eq_some] at h ⊢
  rw [softReset_entry]
  unfold Entry.softReset
  rw [h]

theorem softReset_sink? {c : SinkCtx} (h : s.sink? i = some c) : (softReset s).sink? i = some c.softReset := by
  rw [sink?_eq_some] at h ⊢
  rw [softReset_entry]
  unfold Entry.softReset
  rw [h]

theorem softReset_off (h : (s.entry i).role = .off) : ((softReset s).entry i).role = .off := by
  rw [softReset_entry]
  unfold Entry.softReset
  rw [h]

/-- The context a window owns after soft reset holds nothing: no record, no held record. -/
theorem softReset_contexts (i : WinIdx) : (∀ c, (softReset s).source? i = some c → c.queue = [])
    ∧ ∀ c, (softReset s).sink? i = some c → c.state = .closed := by
  simp only [source?_eq_some, sink?_eq_some, softReset_entry, Entry.softReset]
  cases (s.entry i).role with
  | off => exact ⟨fun c h => (by cases h), fun c h => (by cases h)⟩
  | source d => exact ⟨fun c h => by cases h; rfl, fun c h => (by cases h)⟩
  | sink d => exact ⟨fun c h => (by cases h), fun c h => by cases h; rfl⟩

theorem softReset_recordCount (i : WinIdx) : (softReset s).recordCount i = 0 := by
  unfold State.recordCount
  cases h : (softReset s).source? i with
  | none => rfl
  | some c => exact congrArg List.length ((softReset_contexts i).1 c h)

theorem softReset_applyHead (id : StreamId) : (softReset s).applyHead id = none := by
  unfold State.applyHead
  cases (softReset s).lookup id with
  | none => rfl
  | some i =>
      dsimp only
      cases h : (softReset s).sink? i with
      | none => rfl
      | some c =>
          have closed := (softReset_contexts i).2 c h
          simp [SinkCtx.memoryHead, SinkCtx.head, closed]

theorem softReset_freeCount : (softReset s).freeCount = 256 := by
  refine freeCount_of_empty softReset_recordCount ?_ ?_
  · rw [softReset_frame]
    exact (softAccess_cases s).2.1
  · rw [softReset_frame]
    rfl

theorem tryTrain_link (h : s.link.state = .down) : (tryTrain s).link =
    if s.settings.linkEnable = true ∧ s.link.laneReady = true then
      { s.link with
        state := .training, heard := false, helloDue := true, helloTimer := some s.settings.helloInterval }
    else s.link := by
  by_cases go : s.settings.linkEnable = true ∧ s.link.laneReady = true
  · rw [tryTrain_of_ready h go.1 go.2, if_pos go]
    rfl
  · rw [tryTrain_of_not (fun all => go all.2), if_neg go]

/-- The link starts again from DOWN (R82, R101). -/
theorem softReset_link (s : State) : (softReset s).link.counters = zeroCounters ∧ (softReset s).link.heard = false
    ∧ (softReset s).link.state = if s.settings.linkEnable ∧ s.link.laneReady then .training else .down := by
  have settings : (s.blocksReset (softWindows (softAccess s))).settings = s.settings := by
    have kept : (softReset s).settings = s.settings := by rw [softReset_frame]
    rw [← kept, softReset_eq, tryTrain_frame]
  rw [softReset_eq]
  generalize softWindows (softAccess s) = u at settings ⊢
  rw [tryTrain_link rfl, settings]
  by_cases go : s.settings.linkEnable = true ∧ s.link.laneReady = true
  · have ready : s.settings.linkEnable = true ∧ (s.blocksReset u).link.laneReady = true := go
    rw [if_pos go, if_pos ready]
    exact ⟨rfl, rfl, rfl⟩
  · have idle : ¬ (s.settings.linkEnable = true ∧ (s.blocksReset u).link.laneReady = true) := go
    rw [if_neg go, if_neg idle]
    exact ⟨rfl, rfl, rfl⟩

/-! ### The end of its event -/

theorem softReset_accessRests (h : s.bus.presented = none) : (softReset s).accessRests := by
  refine .inr ?_
  rw [softReset_frame]
  exact (softAccess_cases s).2.2.1.trans h

theorem softReset_applyRests (s : State) : (softReset s).applyRests = true := by
  have nothing : nextServed (softReset s).apply.last (fun id => ((softReset s).applyHead id).isSome) = none := by
    rw [nextServed_eq_none]
    intro id
    rw [softReset_applyHead]
    rfl
  unfold State.applyRests
  rw [nothing]
  simp

/-- A request after soft reset was waiting before it, so no grant is due where none was. -/
theorem softReset_requests {r : Requester} (h : (softReset s).requests r = true) : s.requests r = true := by
  rw [softReset_frame] at h
  cases r with
  | access =>
      unfold State.requests at h ⊢
      dsimp only at h ⊢
      split at h
      · rename_i a waits
        rw [(softAccess_cases s).2.2.2 a waits]
      · cases h
  | seed =>
      simp only [State.requests, SeedEngine.softReset, beq_iff_eq] at h
      split at h <;> cases h
  | apply =>
      simp only [State.requests, ApplyEngine.softReset, beq_iff_eq] at h
      split at h <;> cases h

theorem softReset_grantDue (h : s.grantDue = none) : (softReset s).grantDue = none := by
  have arb : (softReset s).arb = s.arb := by rw [softReset_frame]
  unfold State.grantDue at h ⊢
  rw [arb]
  cases op : s.arb.op with
  | some o => rfl
  | none =>
      rw [op] at h
      dsimp only at h ⊢
      rw [List.find?_eq_none] at h ⊢
      exact fun r mem asks => h r mem (softReset_requests asks)

/-- With no access presented the event of the soft reset ends with the judgement. -/
theorem finish_softReset (h : s.still = true) (hp : s.bus.presented = none) :
    finish (softReset s) = judge (softReset s) := by
  obtain ⟨low, _, grant, _⟩ := still_iff.mp h
  have offers : (softReset s).offers = { held := false, seed := false } := by rw [softReset_frame]
  have queue : (softReset s).seed.queue = [] := by rw [softReset_frame]; rfl
  have high : (softReset s).resetLow = false := by rw [softReset_frame]; exact low
  rw [finish_of_settled high (softReset_accessRests hp) (.inr queue) (softReset_applyRests s) offers]
  have ended : (softReset s).midEvent = false := by
    simp [State.midEvent, State.heldOfferDue, State.seedOfferDue, offers, softReset_grantDue grant]
  unfold judgeIfOver
  rw [ended, if_neg Bool.false_ne_true]

/-- The latches after it are the conditions' own, and no acknowledgement is remembered (R164). -/
theorem judge_softReset_ev (s : State) (now : BitVec 13) : s.ev.softReset.judge now =
    { s.ev.softReset with cond := now, pending := now } := by
  have ones : ~~~0#13 = BitVec.allOnes 13 := rfl
  have pending : (0#13 ||| now &&& ~~~0#13) &&& ~~~(0#13 &&& ~~~now &&& 0#13) = now := by
    simp only [BitVec.zero_and, ones, BitVec.and_allOnes, BitVec.zero_or]
  have ackMem : 0#13 &&& ~~~(now &&& ~~~0#13 &&& ~~~0#13) &&& ~~~(0#13 &&& ~~~now) = 0#13 := by
    simp only [BitVec.zero_and]
  unfold EventUnit.judge EventUnit.softReset
  dsimp only
  rw [pending, ackMem]

theorem exec_softReset (h : s.calm = true) (hd : s.port.resetDue = true) :
    exec .softReset s = .next (finish (softReset s)) := by
  change Host.Outcome.next (outside rise s) = _
  rw [outside_of_calm h, rise, if_pos hd]

/-- A held write has its ERROR before the response to what the master presents next. -/
theorem finish_softReset_held (low : s.resetLow = false) (h : s.acc.phase = .waitSlots a i) :
    (finish (softReset s)).bus.presented = none
    ∧ ∃ rs, (finish (softReset s)).bus.responses = rs ++ { ok := false, data := [] } :: s.bus.responses := by
  have high : (softReset s).resetLow = false := by rw [softReset_frame]; exact low
  have bus : (softReset s).bus = { s.bus with responses := { ok := false, data := [] } :: s.bus.responses } := by
    rw [softReset_frame, softAccess_of_held h]
    rfl
  have idle : (softReset s).acc.phase = .idle := by
    rw [softReset_frame, softAccess_of_held h]
    rfl
  generalize softReset s = u at high bus idle ⊢
  cases hp : u.bus.presented with
  | none =>
      rw [finish_bus (.inr hp)]
      exact ⟨hp, [], by rw [bus]; rfl⟩
  | some b =>
      rw [finish_of_presented high idle hp]
      obtain ⟨rs, _, after⟩ := accept_bus b { u with bus := { u.bus with presented := none } }
      rw [finish_bus (.inr (by rw [after])), after]
      exact ⟨rfl, rs, by rw [bus]⟩

/-- Settles O54: the reset block by block, and the judgement that ends its event. -/
theorem softReset_outcome : Obligations.SoftReset := by
  unfold Obligations.SoftReset
  refine ⟨fun s quiet => ?notDue, fun s a i calm due held => ?held, fun s calm due free => ?reset⟩
  case notDue =>
    have still := quiet_still quiet
    obtain ⟨_, _, _, _, _, _, seen⟩ := still_iff.mp still
    have notDue : s.port.resetDue = false := by
      simpa [quiet_calm quiet, State.quiet] using quiet
    change Host.Outcome.next (outside rise s) = _
    rw [outside_of_calm (quiet_calm quiet), rise, notDue, if_neg Bool.false_ne_true]
    exact congrArg Host.Outcome.next (finish_of_port_only still s.port)
  case held =>
    obtain ⟨low, _⟩ := still_iff.mp (calm_still calm)
    obtain ⟨presented, rs, responses⟩ := finish_softReset_held low held
    exact ⟨_, rs, exec_softReset calm due, presented, responses⟩
  case reset =>
    have still := calm_still calm
    have run := exec_softReset calm due
    rw [finish_softReset still free] at run
    obtain ⟨counters, heard, state⟩ := softReset_link s
    have entry : ∀ i, (judge (softReset s)).entry i = (s.entry i).softReset := fun i => softReset_entry i
    have source : ∀ i c, s.source? i = some c → (judge (softReset s)).source? i = some c.softReset :=
      fun i c => softReset_source?
    have sink : ∀ i c, s.sink? i = some c → (judge (softReset s)).sink? i = some c.softReset := fun i c => softReset_sink?
    have off : ∀ i, (s.entry i).role = .off → ((judge (softReset s)).entry i).role = .off := fun i => softReset_off
    have free : (judge (softReset s)).freeCount = 256 := softReset_freeCount
    have ev : (judge (softReset s)).ev = { s.ev.softReset with
        cond := (softReset s).conditions, pending := (softReset s).conditions } := by
      have before : (softReset s).ev = s.ev.softReset := by rw [softReset_frame]
      change (softReset s).ev.judge (softReset s).conditions = _
      rw [before, judge_softReset_ev]
    have conditions : (judge (softReset s)).conditions = (softReset s).conditions := rfl
    have frame := softReset_frame s
    have lane : (softReset s).txLane = s.txLane := by rw [frame]; rfl
    have apart : (softReset s).settings = s.settings ∧ (softReset s).tickLength = s.tickLength
        ∧ (softReset s).arb = s.arb ∧ (softReset s).port = { s.port with txn := none, resetDue := false }
        ∧ (softReset s).sched = s.sched.softReset ∧ (softReset s).seed = s.seed.softReset
        ∧ (softReset s).apply = s.apply.softReset ∧ (softReset s).acc = (softAccess s).acc
        ∧ (softReset s).bus = (softAccess s).bus := by
      rw [frame]
      exact ⟨rfl, rfl, rfl, rfl, rfl, rfl, rfl, rfl, rfl⟩
    obtain ⟨settings, tick, arb, port, sched, seed, apply, acc, bus⟩ := apart
    have linkDown : s.settings.linkEnable = true → (judge (softReset s)).caused .linkDown = true := fun on => by
      refine caused_iff.mpr ?_
      rw [ev]
      have notUp : (softReset s).link.state ≠ .up := by
        rw [state]
        split <;> decide
      exact (conditions_linkDown _).trans (if_pos ⟨by rw [settings]; exact on, notUp⟩)
    refine ⟨_, run, lane, fun i => ⟨?_, off i, source i, sink i⟩, free, settings, tick, arb, congrArg Port.txn port,
      congrArg Port.resetDue port, by rw [ev]; rfl, by rw [ev]; rfl, by rw [ev]; rfl, by rw [ev, conditions], linkDown,
      counters, heard, state, sched, congrArg SeedEngine.active seed, congrArg SeedEngine.queue seed,
      congrArg SeedEngine.resv seed, fun reading => ?_, fun idle => ?_, congrArg ApplyEngine.last apply,
      fun writing => ?_, fun idle => ?_, fun a i held => ?_, fun a waits => ?_, fun a j granted => ?_⟩
    · rw [entry]
      rfl
    · change (softReset s).seed.phase = _ ∧ ((softReset s).seed.flight.all _) = true
      rw [seed]
      refine ⟨if_pos reading, ?_⟩
      unfold SeedEngine.softReset
      cases s.seed.flight <;> rfl
    · exact (congrArg SeedEngine.phase seed).trans (if_neg idle)
    · exact ⟨(congrArg ApplyEngine.phase apply).trans (if_pos writing),
        (congrArg ApplyEngine.served apply).trans (if_pos writing)⟩
    · exact ⟨(congrArg ApplyEngine.phase apply).trans (if_neg idle),
        (congrArg ApplyEngine.served apply).trans (if_neg idle)⟩
    · rw [softAccess_of_held held] at acc bus
      exact ⟨acc, congrArg Bus.responses bus⟩
    · rw [softAccess_of_requesting waits] at acc
      exact ⟨(congrArg AccessUnit.phase acc).trans waits, congrArg AccessUnit.resv acc⟩
    · rw [softAccess_of_granted granted] at acc
      exact congrArg AccessUnit.phase acc

end Sys2Proof.Machine
end

section
/-! SUPPORT. Frames as bytes, read back: each field, each body, the header and the trailer (R91 to R93). -/

namespace Sys2Proof

/-! ### Fields of more than one byte -/

theorem word16_extract (v : BitVec 16) : word16 (v.extractLsb' 8 8) (v.extractLsb' 0 8) = v := by
  unfold word16
  rw [BitVec.extractLsb'_append_extractLsb'_eq_extractLsb' (by decide), BitVec.extractLsb'_eq_self]

theorem word32_extract (v : Word) :
    word32 (v.extractLsb' 24 8) (v.extractLsb' 16 8) (v.extractLsb' 8 8) (v.extractLsb' 0 8) = v := by
  unfold word32
  rw [BitVec.extractLsb'_append_extractLsb'_eq_extractLsb' (by decide),
    BitVec.extractLsb'_append_extractLsb'_eq_extractLsb' (by decide),
    BitVec.extractLsb'_append_extractLsb'_eq_extractLsb' (by decide), BitVec.extractLsb'_eq_self]

theorem be32_length (v : Word) : (be32 v).length = 4 := rfl

/-! ### Coded bytes -/

theorem openReason_ofCode_code (r : OpenReason) : OpenReason.ofCode r.code.toNat = some r := by cases r <;> rfl

theorem refuseReason_ofCode_code (r : RefuseReason) : RefuseReason.ofCode r.code.toNat = some r := by cases r <;> rfl

theorem verdict_ofCode_code (v : Verdict) : Verdict.ofCode v.code.toNat = some v := by cases v <;> rfl

theorem closeCode_ofCode_code (r : CloseCode) : CloseCode.ofCode r.code.toNat = some r := by cases r <;> rfl

/-- The two halves of a record's kind and position byte. -/
theorem kindAndPos_ofCode (kind : RecKind) (pos : RecPos) :
    RecKind.ofCode ((kind.code <<< 4 ||| pos.code).toNat / 16) = some kind
    ∧ RecPos.ofCode ((kind.code <<< 4 ||| pos.code).toNat % 16) = some pos := by
  cases kind <;> cases pos <;> exact ⟨rfl, rfl⟩

/-! ### Bodies -/

theorem RecBody.formatOk_length {r : RecBody} (h : r.formatOk = true) : r.data.length ≤ 16 := by
  unfold RecBody.formatOk at h
  split at h <;> rw [Bool.and_eq_true] at h
  · exact of_decide_eq_true h.2
  · exact of_decide_eq_true h.2
  · rw [beq_iff_eq.mp h.2]
    exact Nat.zero_le 16
  · rw [beq_iff_eq.mp h.2]
    exact Nat.zero_le 16

theorem record_bytes (r : RecBody) : (Body.record r).bytes =
    r.seq.extractLsb' 8 8 :: r.seq.extractLsb' 0 8 :: (r.kind.code <<< 4 ||| r.pos.code)
      :: BitVec.ofNat 8 r.data.length :: r.offset.extractLsb' 24 8 :: r.offset.extractLsb' 16 8
      :: r.offset.extractLsb' 8 8 :: r.offset.extractLsb' 0 8 :: r.tag :: r.data := rfl

theorem parseRecord_bytes {r : RecBody} (h : r.data.length ≤ 16) :
    parseRecord (Body.record r).bytes = some (.record r) := by
  obtain ⟨kind, pos⟩ := kindAndPos_ofCode r.kind r.pos
  have length : (BitVec.ofNat 8 r.data.length).toNat = r.data.length := by
    rw [BitVec.toNat_ofNat]
    omega
  rw [record_bytes]
  unfold parseRecord
  dsimp only
  rw [kind, pos]
  dsimp only
  rw [length, if_pos rfl, word16_extract, word32_extract]

/-- A body within the format is read back from its bytes by the code of its kind. -/
theorem parseBody_bytes {id : StreamId} {epoch : Epoch} {b : Body} (h : (Frame.stream id epoch b).formatOk = true) :
    parseBody b.code.toNat b.bytes = some b := by
  cases b with
  | openReq length reason =>
      change (OpenReason.ofCode _).map _ = _
      rw [openReason_ofCode_code, Option.map_some, word32_extract]
  | openAccept => rfl
  | openRefuse reason =>
      change (RefuseReason.ofCode _).map _ = _
      rw [refuseReason_ofCode_code, Option.map_some]
  | reopen o n =>
      change some (Body.reopen (word16 _ _) (word16 _ _)) = _
      rw [word16_extract, word16_extract]
  | reopenReply v e =>
      change (Verdict.ofCode _).map _ = _
      rw [verdict_ofCode_code, Option.map_some, word16_extract]
  | close reason =>
      change (CloseCode.ofCode _).map _ = _
      rw [closeCode_ofCode_code, Option.map_some]
  | closeAck => rfl
  | promoted l d =>
      change some (Body.promoted (word16 _ _) d) = _
      rw [word16_extract]
  | record r => exact parseRecord_bytes (RecBody.formatOk_length h)
  | ack q =>
      change some (Body.ack (word16 _ _)) = _
      rw [word16_extract]
  | nak q =>
      change some (Body.nak (word16 _ _)) = _
      rw [word16_extract]

/-- No body within the format is longer than 32 bytes (R91). -/
theorem bytes_length_le {id : StreamId} {epoch : Epoch} {b : Body} (h : (Frame.stream id epoch b).formatOk = true) :
    b.bytes.length ≤ 32 := by
  cases b with
  | record r =>
      have data : r.data.length ≤ 16 := RecBody.formatOk_length h
      simp [Body.bytes, be16, be32]
      omega
  | _ => simp [Body.bytes, be16, be32]

/-! ### Frames -/

theorem code_gt (b : Body) : 2 < b.code.toNat := by cases b <;> simp [Body.code]

theorem parseFrame_stream {id : StreamId} {epoch : Epoch} {b : Body} (h : (Frame.stream id epoch b).formatOk = true) :
    parseFrame b.code (id.setWidth 8) epoch b.bytes = some (.stream id epoch b) := by
  have code := code_gt b
  have low : (id.setWidth 8).toNat ≤ 15 := by
    rw [BitVec.toNat_setWidth]
    omega
  have back : (id.setWidth 8).setWidth 4 = id := by simp
  have body := parseBody_bytes h
  unfold parseFrame
  generalize b.code.toNat = k at code body
  generalize b.bytes = bs at body
  dsimp only
  split
  · rename_i f parsed
    have same : Frame.stream id epoch b = f := by
      split at parsed
      · omega
      · omega
      · rw [if_pos low, body, back] at parsed
        exact Option.some.inj parsed
    rw [← same, if_pos h]
  · rename_i parsed
    split at parsed
    · omega
    · omega
    · rw [if_pos low, body] at parsed
      cases parsed

theorem parseFrame_hello (version : Byte) (heard : Bool) :
    parseFrame 0x01#8 0xFF#8 0#8 [version, if heard then 1#8 else 0#8] = some (.hello version heard) := by
  cases heard <;> rfl

/-- A header, a body of the length it names and the trailer pass the first stage of the receive checker. -/
theorem receiveCheck_framed {kind id epoch : Byte} {body : List Byte} {f : Frame} (h : body.length ≤ 32)
    (parsed : parseFrame kind id epoch body = some f) :
    receiveCheck ((kind :: id :: epoch :: BitVec.ofNat 8 body.length :: body)
      ++ be32 (crc32 (kind :: id :: epoch :: BitVec.ofNat 8 body.length :: body))) = .valid f := by
  have length : (BitVec.ofNat 8 body.length).toNat = body.length := by
    rw [BitVec.toNat_ofNat]
    omega
  simp only [List.cons_append]
  unfold receiveCheck
  dsimp only
  rw [length, List.take_left, List.drop_left, if_pos ⟨by rw [List.length_append, be32_length], h, rfl⟩, parsed]

end Sys2Proof

namespace Sys2Proof.Machine

/-- Settles O56: every body by its own layout, and the two stages of the checker on the frame around it. -/
theorem frameBytesReadBack : Obligations.FrameBytesReadBack := by
  unfold Obligations.FrameBytesReadBack
  intro f ok
  cases f with
  | hello version heard =>
      exact receiveCheck_framed (body := [version, if heard then 1#8 else 0#8]) (by simp) (parseFrame_hello version heard)
  | keepalive => exact receiveCheck_framed (body := []) (by simp) rfl
  | stream id epoch b => exact receiveCheck_framed (bytes_length_le ok) (parseFrame_stream ok)

end Sys2Proof.Machine
end

section
/-! SUPPORT. The journal's invariant as a proposition: what every window claims of the 256 slots, and what the two holders of
reservations stand for (`JournalOk`, which `journalValid` decides). Then the changes of a state that keep it. -/

namespace Sys2Proof.Machine

/-! ### Claims -/

/-- The walk of the stream of window `i` ends `n` bytes beyond its cursor. -/
def State.walkEnds (s : State) (i : WinIdx) (n : Nat) : Bool :=
  (s.source? i).any fun c => c.cursor + n == (s.entry i).length.toNat

theorem sum_windows_le {f g : WinIdx → Nat} (h : ∀ j, g j ≤ f j) : (allWindows.map g).sum ≤ (allWindows.map f).sum := by
  simp only [allWindows, List.map_cons, List.map_nil, List.sum_cons, List.sum_nil]
  exact Nat.add_le_add (h 0) (Nat.add_le_add (h 1) (Nat.add_le_add (h 2) (Nat.add_le_add (h 3) (Nat.add_le_add (h 4)
    (Nat.add_le_add (h 5) (Nat.add_le_add (h 6) (Nat.add_le_add (h 7) (Nat.le_refl 0))))))))

/-- A sum over the windows in which one term differs. -/
theorem sum_allWindows_of_le {f g : WinIdx → Nat} (i : WinIdx) {k : Nat} (hi : g i ≤ f i + k)
    (h : ∀ j, j ≠ i → g j ≤ f j) : (allWindows.map g).sum ≤ (allWindows.map f).sum + k := by
  have all : ∀ j, g j ≤ f j + if j = i then k else 0 := by
    intro j
    by_cases hj : j = i
    · subst hj; simpa using hi
    · simpa [hj] using h j hj
  calc (allWindows.map g).sum ≤ (allWindows.map fun j => f j + if j = i then k else 0).sum :=
        sum_windows_le all
    _ = (allWindows.map f).sum + k := by rw [sum_windows_add, sum_windows_at]

/-! ### What the holders stand for -/

/-- What the access unit holds belongs to well-formed writes and to streams that `m` says keep a journal. -/
structure AccessUnit.Ok (m : WinIdx → Bool) (a : AccessUnit) : Prop where
  waits : ∀ acc i, a.phase = .waitSlots acc i → a.resv = none ∧ acc.formOk = true ∧ acc.isWrite = true ∧ m i = true
  requests : ∀ acc, a.phase = .requesting acc → acc.formOk = true ∧
    ∀ r, a.resv = some r → acc.isWrite = true ∧ r.slots = acc.slots ∧ m r.win = true
  others : (a.phase = .idle ∨ ∃ acc j, a.phase = .granted acc j) → a.resv = none

/-- A chunk's reservation while its read waits for the port (R67). -/
structure ChunkWaits (ends : WinIdx → Nat → Bool) (e : SeedEngine) (r : Resv) : Prop where
  phase : e.phase = .portWait
  active : e.active = some r.win
  flight : e.flight = none
  slots : r.slots = 4 ∨ r.slots = 5 ∧ ends r.win 64 = true

/-- The fifth slot of the last chunk while it is read (R68). -/
structure FifthHeld (ends : WinIdx → Nat → Bool) (e : SeedEngine) (r : Resv) (f : Flight) : Prop where
  phase : e.phase = .reading
  slots : r.slots = 1
  flight : e.flight = some f
  win : f.win = r.win
  fifth : f.fifth = true
  stands : f.orphan = false
  ends : ends r.win 0 = true

/-- What the seed engine holds belongs to streams that `m` says keep a journal, and stands for a chunk or a SEED_END. -/
structure SeedEngine.Ok (m : WinIdx → Bool) (ends : WinIdx → Nat → Bool) (e : SeedEngine) : Prop where
  queue : ∀ i ∈ e.queue, m i = true
  active : ∀ i, e.active = some i → m i = true
  noFifth : e.resv = none → ∀ f, e.flight = some f → f.fifth = false
  resv : ∀ r, e.resv = some r → m r.win = true ∧ (ChunkWaits ends e r ∨ ∃ f, FifthHeld ends e r f)
  reading : ∀ f, e.flight = some f → e.phase = .reading ∧ (f.orphan = true ∨ m f.win = true)

/-- The journal is in order: no more than 256 slots are claimed, no stream claims more than its QUOTA or, without a journal,
anything, and the holders stand for what they hold. -/
structure JournalOk (s : State) : Prop where
  total : (allWindows.map s.claims).sum ≤ Config.journalSlots
  quota : ∀ i, s.claims i ≤ (s.entry i).quota
  bare : ∀ i, s.mirrors i = false → s.claims i = 0
  acc : s.acc.Ok s.mirrors
  seed : s.seed.Ok s.mirrors s.walkEnds

theorem accessResvValid_iff (s : State) : s.accessResvValid = true ↔ s.acc.Ok s.mirrors := by
  unfold State.accessResvValid
  constructor
  · intro h
    cases hr : s.acc.resv <;> cases hp : s.acc.phase <;> simp [hr, hp] at h <;>
      exact ⟨by simp_all, by simp_all, by simp_all⟩
  · rintro ⟨waits, requests, others⟩
    cases hr : s.acc.resv <;> cases hp : s.acc.phase <;> simp_all

theorem seedResvValid_iff (s : State) : s.seedResvValid = true ↔ s.seed.Ok s.mirrors s.walkEnds := by
  unfold State.seedResvValid State.walkEnds
  simp only [Bool.and_eq_true, List.all_eq_true, Option.all_eq_true, Option.isNone_iff_eq_none, Bool.or_eq_true,
    beq_iff_eq]
  constructor
  · rintro ⟨⟨⟨⟨queue, active⟩, resv⟩, phase⟩, flight⟩
    refine ⟨queue, active, fun hn f hf => ?_, fun r hr => ?_, fun f hf => ⟨?_, flight f hf⟩⟩
    · simp only [hn, hf, Option.all_some, Bool.not_eq_true'] at resv; exact resv
    · simp only [hr, Bool.and_eq_true, Bool.or_eq_true, beq_iff_eq, Option.isNone_iff_eq_none] at resv
      obtain ⟨keeps, ⟨⟨⟨hp, ha⟩, hf⟩, hs⟩ | ⟨⟨hp, hs⟩, hf⟩⟩ := resv
      · exact ⟨keeps, .inl ⟨hp, ha, hf, hs⟩⟩
      · cases fl : s.seed.flight with
        | none => rw [fl] at hf; cases hf
        | some f =>
            simp only [fl, Option.any_some, Bool.and_eq_true, beq_iff_eq, Bool.not_eq_true'] at hf
            obtain ⟨⟨⟨win, fifth⟩, stands⟩, ends⟩ := hf
            exact ⟨keeps, .inr ⟨f, hp, hs, fl, win, fifth, stands, ends⟩⟩
    · rcases phase with h | h
      · rw [h] at hf; cases hf
      · exact h
  · rintro ⟨queue, active, noFifth, resv, reading⟩
    refine ⟨⟨⟨⟨queue, active⟩, ?_⟩, ?_⟩, fun f hf => (reading f hf).2⟩
    · cases hr : s.seed.resv with
      | none =>
          simp only [Option.all_eq_true, Bool.not_eq_true']
          exact noFifth hr
      | some r =>
          simp only [Bool.and_eq_true, Bool.or_eq_true, beq_iff_eq, Option.isNone_iff_eq_none]
          obtain ⟨keeps, h | ⟨f, h⟩⟩ := resv r hr
          · exact ⟨keeps, .inl ⟨⟨⟨h.phase, h.active⟩, h.flight⟩, h.slots⟩⟩
          · refine ⟨keeps, .inr ⟨⟨h.phase, h.slots⟩, ?_⟩⟩
            simp only [h.flight, Option.any_some, Bool.and_eq_true, beq_iff_eq, Bool.not_eq_true']
            exact ⟨⟨⟨h.win, h.fifth⟩, h.stands⟩, h.ends⟩
    · cases hf : s.seed.flight with
      | none => exact .inl rfl
      | some f => exact .inr (reading f hf).1

/-- `journalValid` decides `JournalOk`. -/
theorem journalValid_iff (s : State) : s.journalValid = true ↔ JournalOk s := by
  unfold State.journalValid
  simp only [Bool.and_eq_true, List.all_eq_true, mem_allWindows, true_implies, decide_eq_true_eq, Bool.or_eq_true,
    accessResvValid_iff, seedResvValid_iff, usedSlots_eq_sum_claims, beq_iff_eq]
  constructor
  · rintro ⟨⟨⟨total, windows⟩, acc⟩, seed⟩
    refine ⟨total, fun i => (windows i).1, fun i hi => ?_, acc, seed⟩
    rcases (windows i).2 with h | h
    · rw [hi] at h; cases h
    · exact h
  · rintro ⟨total, quota, bare, acc, seed⟩
    refine ⟨⟨⟨total, fun i => ⟨quota i, ?_⟩⟩, acc⟩, seed⟩
    cases hm : s.mirrors i
    · exact .inr (bare i hm)
    · exact .inl rfl

/-! ### Keeping it -/

theorem AccessUnit.Ok.mono {m m' : WinIdx → Bool} {a : AccessUnit} (h : a.Ok m) (hm : ∀ i, m i = true → m' i = true) :
    a.Ok m' where
  waits acc i hp := by
    obtain ⟨h1, h2, h3, h4⟩ := h.waits acc i hp
    exact ⟨h1, h2, h3, hm i h4⟩
  requests acc hp := by
    obtain ⟨h1, h2⟩ := h.requests acc hp
    refine ⟨h1, fun r hr => ?_⟩
    obtain ⟨h3, h4, h5⟩ := h2 r hr
    exact ⟨h3, h4, hm _ h5⟩
  others := h.others

theorem SeedEngine.Ok.mono {m m' : WinIdx → Bool} {ends ends' : WinIdx → Nat → Bool} {e : SeedEngine}
    (h : e.Ok m ends) (hm : ∀ i, m i = true → m' i = true)
    (he : ∀ i n, m i = true → ends i n = true → ends' i n = true) : e.Ok m' ends' where
  queue i hi := hm i (h.queue i hi)
  active i hi := hm i (h.active i hi)
  noFifth := h.noFifth
  resv r hr := by
    obtain ⟨keeps, h1 | ⟨f, h1⟩⟩ := h.resv r hr
    · exact ⟨hm _ keeps, .inl ⟨h1.phase, h1.active, h1.flight, h1.slots.imp id fun h2 => ⟨h2.1, he _ _ keeps h2.2⟩⟩⟩
    · exact ⟨hm _ keeps, .inr ⟨f, h1.phase, h1.slots, h1.flight, h1.win, h1.fifth, h1.stands, he _ _ keeps h1.ends⟩⟩
  reading f hf := ⟨(h.reading f hf).1, (h.reading f hf).2.imp id (hm _)⟩

/-- No window claims more than before. -/
theorem JournalOk.of_le {s t : State} (h : JournalOk s) (hc : ∀ j, t.claims j ≤ s.claims j)
    (hq : ∀ j, (t.entry j).quota = (s.entry j).quota ∨ t.claims j = 0)
    (hm : ∀ j, s.mirrors j = true → t.mirrors j = true ∨ t.claims j = 0)
    (acc : t.acc.Ok t.mirrors) (seed : t.seed.Ok t.mirrors t.walkEnds) : JournalOk t where
  total := Nat.le_trans (sum_windows_le hc) h.total
  quota j := by
    rcases hq j with hq | hq
    · rw [hq]; exact Nat.le_trans (hc j) (h.quota j)
    · rw [hq]; exact Nat.zero_le _
  bare j hj := by
    cases hs : s.mirrors j
    · exact Nat.le_zero.mp (Nat.le_trans (hc j) (Nat.le_of_eq (h.bare j hs)))
    · exact (hm j hs).resolve_left (by simp [hj])
  acc := acc
  seed := seed

/-- One window claims `k` slots more, after the reservation test (R44). -/
theorem JournalOk.of_reserve {s t : State} (h : JournalOk s) {i : WinIdx} {k : Nat} (hr : s.reserveOk i k = true)
    (hi : t.claims i ≤ s.claims i + k) (hc : ∀ j, j ≠ i → t.claims j ≤ s.claims j)
    (hq : ∀ j, (t.entry j).quota = (s.entry j).quota) (hm : ∀ j, s.mirrors j = true → t.mirrors j = true)
    (mi : t.mirrors i = true) (acc : t.acc.Ok t.mirrors) (seed : t.seed.Ok t.mirrors t.walkEnds) : JournalOk t := by
  simp only [State.reserveOk, Bool.and_eq_true, decide_eq_true_eq, State.freeCount, usedSlots_eq_sum_claims] at hr
  obtain ⟨free, quota⟩ := hr
  have total := h.total
  refine ⟨Nat.le_trans (sum_allWindows_of_le i hi hc) (by omega), fun j => ?_, fun j hj => ?_, acc, seed⟩
  · rw [hq]
    by_cases hji : j = i
    · subst hji; exact Nat.le_trans hi quota
    · exact Nat.le_trans (hc j hji) (h.quota j)
  · by_cases hji : j = i
    · subst hji; rw [hj] at mi; cases mi
    · refine Nat.le_zero.mp (Nat.le_trans (hc j hji) (Nat.le_of_eq (h.bare j ?_)))
      cases hs : s.mirrors j
      · rfl
      · rw [hm j hs] at hj; cases hj

/-! ### What an entry means to the journal -/

/-- The records an entry's context holds. -/
def Entry.records (e : Entry) : Nat :=
  match e.role with
  | .source c => c.queue.length
  | _ => 0

theorem recordCount_eq (s : State) (i : WinIdx) : s.recordCount i = (s.entry i).records := by
  unfold State.recordCount State.source? Entry.records
  cases (s.entry i).role <;> rfl

/-- An entry whose context keeps a journal. -/
def Entry.mirrors (e : Entry) : Bool :=
  match e.role with
  | .source c => c.state.journals
  | _ => false

theorem mirrors_eq (s : State) (i : WinIdx) : s.mirrors i = (s.entry i).mirrors := by
  unfold State.mirrors State.source? Entry.mirrors
  cases (s.entry i).role <;> rfl

theorem mirrors_of_source {s : State} {i : WinIdx} {c : SourceCtx} (h : s.source? i = some c) :
    s.mirrors i = c.state.journals := by
  simp [State.mirrors, h]

theorem mirrors_source {s : State} {i : WinIdx} (h : s.mirrors i = true) :
    ∃ c, s.source? i = some c ∧ c.state.journals = true := by
  unfold State.mirrors at h
  cases hc : s.source? i with
  | none => rw [hc] at h; cases h
  | some c => rw [hc] at h; exact ⟨c, rfl, h⟩

/-- An entry's walk ends `n` bytes beyond its cursor. -/
def Entry.walkEnds (e : Entry) (n : Nat) : Bool :=
  match e.role with
  | .source c => c.cursor + n == e.length.toNat
  | _ => false

theorem walkEnds_eq (s : State) (i : WinIdx) (n : Nat) : s.walkEnds i n = (s.entry i).walkEnds n := by
  unfold State.walkEnds State.source? Entry.walkEnds
  cases (s.entry i).role <;> rfl

theorem claims_eq (s : State) (i : WinIdx) : s.claims i = (s.entry i).records + s.reservedCount i := by
  rw [State.claims, recordCount_eq]

/-- A change of an entry that adds no records and, where the entry keeps a journal, keeps it with the same QUOTA and the same
walk. -/
structure Entry.Tame (e f : Entry) : Prop where
  records : f.records ≤ e.records
  keeps : e.mirrors = true → f.mirrors = true ∧ f.quota = e.quota ∧ ∀ n, e.walkEnds n = true → f.walkEnds n = true

theorem Entry.Tame.refl (e : Entry) : e.Tame e := ⟨Nat.le_refl _, fun h => ⟨h, rfl, fun _ => id⟩⟩

theorem Entry.Tame.trans {e f g : Entry} (h : e.Tame f) (k : f.Tame g) : e.Tame g := by
  refine ⟨Nat.le_trans k.records h.records, fun m => ?_⟩
  obtain ⟨hm, hq, hw⟩ := h.keeps m
  obtain ⟨km, kq, kw⟩ := k.keeps hm
  exact ⟨km, kq.trans hq, fun n => kw n ∘ hw n⟩

/-- An entry without a journal can become anything that holds no records. -/
theorem Entry.Tame.of_bare {e f : Entry} (hm : e.mirrors = false) (hr : f.records = 0) : e.Tame f :=
  ⟨hr ▸ Nat.zero_le _, fun m => absurd (hm.symm.trans m) Bool.false_ne_true⟩

/-! ### Changes that leave the holders and no entry more -/

/-- The holders stand, and every entry is changed tamely or not at all. -/
structure JournalKept (s t : State) : Prop where
  phase : t.acc.phase = s.acc.phase
  resv : t.acc.resv = s.acc.resv
  seed : t.seed = s.seed
  entry : ∀ j, (s.entry j).Tame (t.entry j)

theorem JournalKept.refl (s : State) : JournalKept s s := ⟨rfl, rfl, rfl, fun _ => Entry.Tame.refl _⟩

theorem JournalKept.trans {s t u : State} (h : JournalKept s t) (k : JournalKept t u) : JournalKept s u :=
  ⟨k.phase.trans h.phase, k.resv.trans h.resv, k.seed.trans h.seed, fun j => (h.entry j).trans (k.entry j)⟩

theorem JournalKept.of_eq {s t : State} (hw : t.windows = s.windows) (ha : t.acc = s.acc) (hs : t.seed = s.seed) :
    JournalKept s t := by
  refine ⟨by rw [ha], by rw [ha], hs, fun j => ?_⟩
  have same : t.entry j = s.entry j := by simp only [State.entry, hw]
  rw [same]
  exact Entry.Tame.refl _

theorem JournalKept.foldl {f : State → WinIdx → State} (h : ∀ s i, JournalKept s (f s i)) (l : List WinIdx) (s : State) :
    JournalKept s (l.foldl f s) := by
  induction l generalizing s with
  | nil => exact JournalKept.refl s
  | cons i l ih => exact (h s i).trans (ih _)

theorem AccessUnit.Ok.congr {m : WinIdx → Bool} {a b : AccessUnit} (h : a.Ok m) (hp : b.phase = a.phase)
    (hr : b.resv = a.resv) : b.Ok m := by
  refine ⟨?_, ?_, ?_⟩ <;> rw [hp, hr]
  · exact h.waits
  · exact h.requests
  · exact h.others

theorem JournalOk.kept {s t : State} (h : JournalOk s) (k : JournalKept s t) : JournalOk t := by
  have mirrors : ∀ j, s.mirrors j = true → t.mirrors j = true := fun j hj => by
    rw [mirrors_eq] at hj ⊢
    exact ((k.entry j).keeps hj).1
  have claims : ∀ j, t.claims j ≤ s.claims j := fun j => by
    rw [claims_eq, claims_eq, State.reservedCount, State.reservedCount, k.resv, k.seed]
    exact Nat.add_le_add_right (k.entry j).records _
  refine h.of_le claims (fun j => ?_) (fun j hj => .inl (mirrors j hj)) ?_ ?_
  · cases hs : s.mirrors j
    · exact .inr (Nat.le_zero.mp (Nat.le_trans (claims j) (Nat.le_of_eq (h.bare j hs))))
    · rw [mirrors_eq] at hs
      exact .inl ((k.entry j).keeps hs).2.1
  · exact (h.acc.mono mirrors).congr k.phase k.resv
  · rw [k.seed]
    refine h.seed.mono mirrors fun j n hj hn => ?_
    rw [mirrors_eq] at hj
    rw [walkEnds_eq] at hn ⊢
    exact ((k.entry j).keeps hj).2.2 n hn

/-- The invariant looks at the window table and the two holders. -/
theorem JournalOk.congr {s t : State} (h : JournalOk s) (hw : t.windows = s.windows) (ha : t.acc = s.acc)
    (hs : t.seed = s.seed) : JournalOk t :=
  h.kept (JournalKept.of_eq hw ha hs)

section OneWindow

variable {s : State} {i : WinIdx}

theorem setEntry_journalKept {e : Entry} (h : (s.entry i).Tame e) : JournalKept s (s.setEntry i e) := by
  refine ⟨rfl, rfl, rfl, fun j => ?_⟩
  rw [setEntry_entry]
  split
  · rename_i hj
    rw [hj]
    exact h
  · exact Entry.Tame.refl _

/-- What a change of a source context must keep: it adds no records, and a stream that keeps a journal keeps it, with its
cursor. -/
structure SourceCtx.Tame (c d : SourceCtx) : Prop where
  records : d.queue.length ≤ c.queue.length
  keeps : c.state.journals = true → d.state.journals = true ∧ d.cursor = c.cursor

theorem setSource_journalKept {c d : SourceCtx} (hc : s.source? i = some c) (hd : c.Tame d) :
    JournalKept s (s.setRole i (.source d)) := by
  have role := source?_eq_some.mp hc
  refine setEntry_journalKept ⟨?_, fun hm => ?_⟩
  · simpa [Entry.records, role] using hd.records
  · have journals : c.state.journals = true := by simpa [Entry.mirrors, role] using hm
    obtain ⟨hj, hcur⟩ := hd.keeps journals
    exact ⟨by simpa [Entry.mirrors] using hj, rfl, fun n hn => by simpa [Entry.walkEnds, role, hcur] using hn⟩

theorem modSource_journalKept {f : SourceCtx → SourceCtx} (hf : ∀ c, s.source? i = some c → c.Tame (f c)) :
    JournalKept s (s.modSource i f) := by
  cases hc : s.source? i with
  | none => rw [modSource_none f hc]; exact JournalKept.refl s
  | some c => rw [modSource_some f hc]; exact setSource_journalKept hc (hf c hc)

/-- A sink stream has no part in the journal. -/
theorem modSink_journalKept (f : SinkCtx → SinkCtx) : JournalKept s (s.modSink i f) := by
  cases hc : s.sink? i with
  | none => rw [modSink_none f hc]; exact JournalKept.refl s
  | some c =>
      rw [modSink_some f hc]
      have role := sink?_eq_some.mp hc
      exact setEntry_journalKept (Entry.Tame.of_bare (by simp [Entry.mirrors, role]) rfl)

end OneWindow

end Sys2Proof.Machine
end

section
/-! SUPPORT. The discard of a stream's journal leaves nothing that is of the stream: no record, no reservation, no wait
(`Cleared`). The transitions that begin with it, and those of a stream that keeps no journal, keep the invariant (R55, R65,
R75, R113, R115, R117, R118). -/

namespace Sys2Proof.Machine

/-! ### The access unit -/

theorem slots_pos {a : Access} (h : a.formOk = true) : 0 < a.slots := by
  unfold Access.formOk at h
  unfold Access.slots
  split at h
  · exact Nat.one_pos
  · simp only [Bool.and_eq_true, decide_eq_true_eq] at h
    omega

section Access

variable {m m' : WinIdx → Bool} {a : AccessUnit} {x : Access} {i : WinIdx}

/-- A unit that waits for nothing. -/
theorem AccessUnit.Ok.of_rest (hr : a.resv = none) (hp : a.phase = .idle ∨ ∃ y j, a.phase = .granted y j) : a.Ok m where
  waits y w e := by rcases hp with h | ⟨_, _, h⟩ <;> rw [h] at e <;> cases e
  requests y e := by rcases hp with h | ⟨_, _, h⟩ <;> rw [h] at e <;> cases e
  others _ := hr

/-- A unit that waits for the port with no reservation. -/
theorem AccessUnit.Ok.of_request (hf : x.formOk = true) (hp : a.phase = .requesting x) (hr : a.resv = none) : a.Ok m where
  waits y w e := by rw [hp] at e; cases e
  requests y e := by
    rw [hp] at e
    cases e
    exact ⟨hf, fun r h => absurd (hr.symm.trans h) (by simp)⟩
  others _ := hr

/-- A unit holds reservations only against streams that keep a journal. -/
theorem AccessUnit.Ok.unreserved (h : a.Ok m) (hm : m i = false) : slotsAgainst a.resv i = 0 := by
  cases hr : a.resv with
  | none => rfl
  | some r =>
      have other : r.win ≠ i := fun e => by
        cases hp : a.phase with
        | idle => exact absurd (hr.symm.trans (h.others (.inl hp))) (by simp)
        | waitSlots y w => exact absurd (hr.symm.trans (h.waits y w hp).1) (by simp)
        | granted y j => exact absurd (hr.symm.trans (h.others (.inr ⟨y, j, hp⟩))) (by simp)
        | requesting y =>
            obtain ⟨_, held⟩ := h.requests y hp
            exact Bool.false_ne_true (hm.symm.trans (e ▸ (held r hr).2.2))
      simp [slotsAgainst, other]

theorem AccessUnit.discard_resv (a : AccessUnit) (i : WinIdx) :
    (a.discard i).resv = a.resv ∨ (a.discard i).resv = none := by
  have drop : (a.dropResv i).resv = a.resv ∨ (a.dropResv i).resv = none := by
    unfold AccessUnit.dropResv
    split
    · exact .inl rfl
    · exact .inr rfl
  rw [AccessUnit.discard_eq]
  split
  · split <;> exact drop
  · split <;> exact drop
  · exact drop

theorem AccessUnit.dropResv_none (h : a.resv = none) : a.dropResv i = a := by
  unfold AccessUnit.dropResv
  rw [h]
  rfl

/-- After the discard of stream `i` the unit holds nothing of it (R12, R16). -/
theorem AccessUnit.Ok.discard (h : a.Ok m) (hm : ∀ j, j ≠ i → m j = true → m' j = true) : (a.discard i).Ok m' := by
  cases hp : a.phase with
  | idle =>
      have none := h.others (.inl hp)
      refine .of_rest ?_ (.inl ((AccessUnit.discard_idle a i).mpr hp))
      rcases AccessUnit.discard_resv a i with e | e <;> simp [e, none]
  | granted x j =>
      have none := h.others (.inr ⟨x, j, hp⟩)
      refine .of_rest ?_ (.inr ?_)
      · rcases AccessUnit.discard_resv a i with e | e <;> simp [e, none]
      · rw [AccessUnit.discard_eq, hp, AccessUnit.dropResv_none none]
        cases j with
        | none => exact ⟨x, _, hp⟩
        | some j =>
            dsimp only
            split
            · exact ⟨x, _, rfl⟩
            · exact ⟨x, _, hp⟩
  | waitSlots x w =>
      obtain ⟨none, form, write, keeps⟩ := h.waits x w hp
      rw [AccessUnit.discard_eq, hp, AccessUnit.dropResv_none none]
      dsimp only
      split
      · exact .of_request form rfl none
      · rename_i other
        refine ⟨fun y v e => ?_, fun y e => ?_, fun _ => none⟩
        · rw [hp] at e
          cases e
          exact ⟨none, form, write, hm w other keeps⟩
        · rw [hp] at e
          cases e
  | requesting x =>
      obtain ⟨form, held⟩ := h.requests x hp
      have same : a.discard i = a.dropResv i := by rw [AccessUnit.discard_eq, hp]
      rw [same]
      unfold AccessUnit.dropResv
      split
      · rename_i free
        refine ⟨fun y w e => ?_, fun y e => ?_, fun e => ?_⟩
        · rw [hp] at e
          cases e
        · rw [hp] at e
          cases e
          refine ⟨form, fun r hr => ?_⟩
          obtain ⟨write, slots, keeps⟩ := held r hr
          refine ⟨write, slots, hm _ (fun win => ?_) keeps⟩
          have pos := slots_pos form
          rw [hr, ← win] at free
          simp only [slotsAgainst, if_true] at free
          omega
        · rcases e with e | ⟨_, _, e⟩ <;> rw [hp] at e <;> cases e
      · exact .of_request form hp rfl

end Access

/-! ### The seed engine -/

section Seed

variable {m m' : WinIdx → Bool} {ends ends' : WinIdx → Nat → Bool} {e : SeedEngine} {i : WinIdx}

/-- The engine holds reservations only against streams that keep a journal. -/
theorem SeedEngine.Ok.unreserved (h : e.Ok m ends) (hm : m i = false) : slotsAgainst e.resv i = 0 := by
  cases hr : e.resv with
  | none => rfl
  | some r =>
      have other : r.win ≠ i := fun win => Bool.false_ne_true (hm.symm.trans (win ▸ (h.resv r hr).1))
      simp [slotsAgainst, other]

theorem SeedEngine.Ok.flight_none (h : e.Ok m ends) (hp : e.phase ≠ .reading) : e.flight = none := by
  cases hf : e.flight with
  | none => rfl
  | some f => exact absurd (h.reading f hf).1 hp

theorem SeedEngine.Ok.leaveQueue (h : e.Ok m ends) : (e.leaveQueue i).Ok m ends where
  queue j hj := h.queue j (List.mem_filter.mp hj).1
  active := h.active
  noFifth := h.noFifth
  resv r hr := by
    obtain ⟨keeps, w | ⟨f, w⟩⟩ := h.resv r hr
    · exact ⟨keeps, .inl { w with }⟩
    · exact ⟨keeps, .inr ⟨f, { w with }⟩⟩
  reading := h.reading

/-- The engine dropped, with no read in flight. -/
theorem SeedEngine.Ok.dropped (h : e.Ok m ends) : ({ e.drop with flight := none } : SeedEngine).Ok m ends where
  queue := h.queue
  active j hj := by cases hj
  noFifth _ f hf := by cases hf
  resv r hr := by cases hr
  reading f hf := by cases hf

theorem SeedEngine.Ok.drop (h : e.Ok m ends) (hf : e.flight = none) : e.drop.Ok m ends := by
  have same : ({ e.drop with flight := none } : SeedEngine) = e.drop := by
    rw [← hf]
    rfl
  exact same ▸ h.dropped

/-- While it reads, the engine can lose its active stream. -/
theorem SeedEngine.Ok.unactive (h : e.Ok m ends) (hp : e.phase = .reading) :
    ({ e with active := none, chunkCount := 0 } : SeedEngine).Ok m ends where
  queue := h.queue
  active j hj := by cases hj
  noFifth := h.noFifth
  resv r hr := by
    obtain ⟨keeps, w | ⟨f, w⟩⟩ := h.resv r hr
    · exact absurd (hp.symm.trans w.phase) (by decide)
    · exact ⟨keeps, .inr ⟨f, { w with }⟩⟩
  reading := h.reading

/-- A read whose records are discarded is orphaned, with no slot held for it. -/
theorem SeedEngine.Ok.orphaned (h : e.Ok m ends) : ({ e with
    flight := e.flight.map fun f => { f with fifth := false, orphan := true }, resv := none } : SeedEngine).Ok m ends where
  queue := h.queue
  active := h.active
  noFifth _ f hf := by
    obtain ⟨g, _, rfl⟩ := Option.map_eq_some_iff.mp hf
    rfl
  resv r hr := by cases hr
  reading f hf := by
    obtain ⟨g, hg, rfl⟩ := Option.map_eq_some_iff.mp hf
    exact ⟨(h.reading g hg).1, .inl rfl⟩

/-- What of the engine's holdings is not of stream `i`. -/
structure SeedEngine.Spares (i : WinIdx) (e : SeedEngine) : Prop where
  queue : i ∉ e.queue
  active : e.active ≠ some i
  resv : ∀ r, e.resv = some r → r.win ≠ i
  flight : ∀ f, e.flight = some f → f.orphan = true ∨ f.win ≠ i

/-- An engine that holds nothing of stream `i` does not look at it. -/
theorem SeedEngine.Ok.spared (h : e.Ok m ends) (hs : e.Spares i) (hm : ∀ j, j ≠ i → m j = true → m' j = true)
    (he : ∀ j, j ≠ i → ∀ n, ends j n = true → ends' j n = true) : e.Ok m' ends' where
  queue j hj := hm j (fun hji => hs.queue (hji ▸ hj)) (h.queue j hj)
  active j hj := hm j (fun hji => hs.active (hji ▸ hj)) (h.active j hj)
  noFifth := h.noFifth
  resv r hr := by
    have other := hs.resv r hr
    obtain ⟨keeps, w | ⟨f, w⟩⟩ := h.resv r hr
    · exact ⟨hm _ other keeps, .inl { w with slots := w.slots.imp id fun five => ⟨five.1, he _ other _ five.2⟩ }⟩
    · exact ⟨hm _ other keeps, .inr ⟨f, { w with ends := he _ other _ w.ends }⟩⟩
  reading f hf := by
    obtain ⟨phase, stands⟩ := h.reading f hf
    refine ⟨phase, ?_⟩
    rcases hs.flight f hf with orphan | other
    · exact .inl orphan
    · exact stands.imp id (hm _ other)

/-- After the discard of stream `i` the engine is in order and holds nothing of it (R55, R65, R75). -/
theorem SeedEngine.Ok.discard (h : e.Ok m ends) : (e.discard i).Ok m ends ∧ (e.discard i).Spares i := by
  have left := h.leaveQueue (i := i)
  have queue : i ∉ (e.leaveQueue i).queue := fun hi => by simpa using (List.mem_filter.mp hi).2
  unfold SeedEngine.discard
  dsimp only
  generalize e.leaveQueue i = l at left queue ⊢
  -- the read in flight
  obtain ⟨k, hk, ok, free, resv, flight⟩ : ∃ k : SeedEngine,
      (if (l.flight.any fun f => f.win == i) then
        { l with flight := l.flight.map fun f => { f with fifth := false, orphan := true }, resv := none } else l) = k
      ∧ k.Ok m ends ∧ i ∉ k.queue ∧ (∀ r, k.resv = some r → k.phase = .portWait ∧ k.active = some r.win ∨ r.win ≠ i)
      ∧ ∀ f, k.flight = some f → f.orphan = true ∨ f.win ≠ i := by
    refine ⟨_, rfl, ?_⟩
    split
    · refine ⟨left.orphaned, queue, fun r hr => (by cases hr), fun f hf => ?_⟩
      obtain ⟨g, _, rfl⟩ := Option.map_eq_some_iff.mp hf
      exact .inl rfl
    · rename_i away
      have other : ∀ f, l.flight = some f → f.win ≠ i := fun f hf win => away (by rw [hf]; simp [win])
      refine ⟨left, queue, fun r hr => ?_, fun f hf => .inr (other f hf)⟩
      obtain ⟨_, w | ⟨f, w⟩⟩ := left.resv r hr
      · exact .inl ⟨w.phase, w.active⟩
      · exact .inr (w.win ▸ other f w.flight)
  rw [hk]
  -- the active stream
  split
  · rename_i active
    split
    · rename_i reading
      refine ⟨ok.unactive reading, free, by simp, fun r hr => ?_, flight⟩
      exact (resv r hr).resolve_left fun w => absurd (reading.symm.trans w.1) (by decide)
    · rename_i waits
      exact ⟨ok.drop (ok.flight_none waits), free, (by simp [SeedEngine.drop]), fun r hr => (by cases hr), flight⟩
  · rename_i other
    refine ⟨ok, free, other, fun r hr => ?_, flight⟩
    rcases resv r hr with ⟨_, active⟩ | away
    · exact fun win => other (win ▸ active)
    · exact away

theorem SeedEngine.discard_resv (e : SeedEngine) (i : WinIdx) :
    (e.discard i).resv = e.resv ∨ (e.discard i).resv = none := by
  unfold SeedEngine.discard
  dsimp only
  split
  · split
    · split
      · exact .inr rfl
      · exact .inr rfl
    · exact .inr rfl
  · split
    · split
      · exact .inl rfl
      · exact .inr rfl
    · exact .inl rfl

/-- A suspended stream leaves the engine in order (R65, R74). -/
theorem SeedEngine.Ok.suspend (h : e.Ok m ends) : (e.suspend i).Ok m ends := by
  have left := h.leaveQueue (i := i)
  unfold SeedEngine.suspend
  dsimp only
  generalize e.leaveQueue i = l at left ⊢
  split
  · split
    · rename_i p; exact left.drop (left.flight_none (by rw [p]; decide))
    · rename_i p; exact left.drop (left.flight_none (by rw [p]; decide))
    · rename_i p; exact left.drop (left.flight_none (by rw [p]; decide))
    · rename_i p; exact left.unactive p
    · exact left
  · exact left

theorem SeedEngine.suspend_resv (e : SeedEngine) (i : WinIdx) :
    (e.suspend i).resv = e.resv ∨ (e.suspend i).resv = none := by
  unfold SeedEngine.suspend
  dsimp only
  split
  · split
    · exact .inr rfl
    · exact .inr rfl
    · exact .inr rfl
    · exact .inl rfl
    · exact .inl rfl
  · exact .inl rfl

end Seed

/-! ### The part with nothing of one stream left -/

/-- A reservation dropped claims nothing more. -/
theorem slotsAgainst_le {r r' : Option Resv} (h : r' = r ∨ r' = none) (j : WinIdx) :
    slotsAgainst r' j ≤ slotsAgainst r j := by
  rcases h with rfl | rfl
  · exact Nat.le_refl _
  · exact Nat.zero_le _

/-- The streams but that of window `i` that keep a journal. -/
def State.mirrorsBut (s : State) (i : WinIdx) (j : WinIdx) : Bool :=
  j != i && s.mirrors j

theorem mirrorsBut_self (s : State) (i : WinIdx) : s.mirrorsBut i i = false := by simp [State.mirrorsBut]

/-- The journal is in order, and neither it nor a holder has anything of the stream of window `i`. -/
structure Cleared (i : WinIdx) (s : State) : Prop where
  total : (allWindows.map s.claims).sum ≤ Config.journalSlots
  quota : ∀ j, j ≠ i → s.claims j ≤ (s.entry j).quota
  bare : ∀ j, j ≠ i → s.mirrors j = false → s.claims j = 0
  records : (s.entry i).records = 0
  acc : s.acc.Ok (s.mirrorsBut i)
  spares : s.seed.Spares i
  seed : s.seed.Ok (s.mirrorsBut i) s.walkEnds

section Clearing

variable {s t : State} {i : WinIdx}

theorem Cleared.claims (h : Cleared i s) : s.claims i = 0 := by
  rw [claims_eq, h.records, State.reservedCount, h.acc.unreserved (mirrorsBut_self s i),
    h.seed.unreserved (mirrorsBut_self s i)]

theorem Cleared.journalOk (h : Cleared i s) : JournalOk s := by
  have but : ∀ j, s.mirrorsBut i j = true → s.mirrors j = true := fun j hj => (Bool.and_eq_true_iff.mp hj).2
  refine ⟨h.total, fun j => ?_, fun j hj => ?_, h.acc.mono but, h.seed.mono but fun _ _ _ => id⟩
  · by_cases hji : j = i
    · rw [hji, h.claims]
      exact Nat.zero_le _
    · exact h.quota j hji
  · by_cases hji : j = i
    · rw [hji, h.claims]
    · exact h.bare j hji hj

/-- A stream that keeps no journal has nothing in it. -/
theorem JournalOk.cleared (h : JournalOk s) (hb : s.mirrors i = false) : Cleared i s := by
  have away : ∀ j, s.mirrors j = true → j ≠ i := fun j hj e => Bool.false_ne_true (hb.symm.trans (e ▸ hj))
  have but : ∀ j, s.mirrors j = true → s.mirrorsBut i j = true := fun j hj => by simp [State.mirrorsBut, hj, away j hj]
  have none := h.bare i hb
  rw [claims_eq] at none
  refine ⟨h.total, fun j _ => h.quota j, fun j _ => h.bare j, (Nat.add_eq_zero_iff.mp none).1, h.acc.mono but,
    ⟨fun hi => away i (h.seed.queue i hi) rfl, fun hi => away i (h.seed.active i hi) rfl,
      fun r hr => away _ (h.seed.resv r hr).1, fun f hf => (h.seed.reading f hf).2.imp id (away _)⟩,
    h.seed.mono but fun _ _ _ => id⟩

/-- Where nothing is of the stream, its window can become anything that holds no records. -/
theorem Cleared.of_window (h : Cleared i s) (hw : ∀ j, j ≠ i → t.entry j = s.entry j) (hr : (t.entry i).records = 0)
    (ha : t.acc = s.acc) (hs : t.seed = s.seed) : Cleared i t := by
  have resv : ∀ j, t.reservedCount j = s.reservedCount j := fun j => by simp only [State.reservedCount, ha, hs]
  have claims : ∀ j, t.claims j = s.claims j := fun j => by
    rw [claims_eq, claims_eq, resv]
    by_cases hj : j = i
    · rw [hj, hr, h.records]
    · rw [hw j hj]
  have mirrors : ∀ j, j ≠ i → t.mirrors j = s.mirrors j := fun j hj => by rw [mirrors_eq, mirrors_eq, hw j hj]
  have but : t.mirrorsBut i = s.mirrorsBut i := funext fun j => by
    by_cases hj : j = i
    · rw [hj, mirrorsBut_self, mirrorsBut_self]
    · simp only [State.mirrorsBut, mirrors j hj]
  refine ⟨?_, fun j hj => ?_, fun j hj hm => ?_, hr, ?_, hs ▸ h.spares, ?_⟩
  · rw [funext claims]
    exact h.total
  · rw [claims, hw j hj]
    exact h.quota j hj
  · rw [claims]
    exact h.bare j hj ((mirrors j hj).symm.trans hm)
  · rw [but, ha]
    exact h.acc
  · rw [but, hs]
    refine h.seed.spared h.spares (fun _ _ => id) fun j hj n hn => ?_
    rw [walkEnds_eq] at hn ⊢
    rw [hw j hj]
    exact hn

/-- What a discard leaves: the holders without the stream, and no record of it (R55). -/
theorem JournalOk.discarded (h : JournalOk s) (hw : ∀ j, j ≠ i → t.entry j = s.entry j) (hr : (t.entry i).records = 0)
    (ha : t.acc = s.acc.discard i) (hs : t.seed = s.seed.discard i) : Cleared i t := by
  have claims : ∀ j, t.claims j ≤ s.claims j := fun j => by
    have records : (t.entry j).records ≤ (s.entry j).records := by
      by_cases hj : j = i
      · rw [hj, hr]
        exact Nat.zero_le _
      · exact Nat.le_of_eq (congrArg Entry.records (hw j hj))
    have resv : t.reservedCount j ≤ s.reservedCount j := by
      unfold State.reservedCount
      rw [ha, hs]
      exact Nat.add_le_add (slotsAgainst_le (AccessUnit.discard_resv _ i) j)
        (slotsAgainst_le (SeedEngine.discard_resv _ i) j)
    rw [claims_eq, claims_eq]
    exact Nat.add_le_add records resv
  have mirrors : ∀ j, j ≠ i → t.mirrors j = s.mirrors j := fun j hj => by rw [mirrors_eq, mirrors_eq, hw j hj]
  have but : ∀ j, j ≠ i → s.mirrors j = true → t.mirrorsBut i j = true := fun j hj hm => by
    simp [State.mirrorsBut, hj, mirrors j hj, hm]
  obtain ⟨engine, spares⟩ := h.seed.discard (i := i)
  refine ⟨Nat.le_trans (sum_windows_le claims) h.total, fun j hj => ?_, fun j hj hm => ?_, hr, ?_, hs ▸ spares, ?_⟩
  · rw [hw j hj]
    exact Nat.le_trans (claims j) (h.quota j)
  · exact Nat.le_zero.mp (Nat.le_trans (claims j) (Nat.le_of_eq (h.bare j ((mirrors j hj).symm.trans hm))))
  · rw [ha]
    exact h.acc.discard but
  · rw [hs]
    refine engine.spared spares but fun j hj n hn => ?_
    rw [walkEnds_eq] at hn ⊢
    rw [hw j hj]
    exact hn

theorem Cleared.congr (h : Cleared i s) (hw : t.windows = s.windows) (ha : t.acc = s.acc) (hs : t.seed = s.seed) :
    Cleared i t := by
  have entry : ∀ j, t.entry j = s.entry j := fun j => by simp only [State.entry, hw]
  exact h.of_window (fun j _ => entry j) ((congrArg Entry.records (entry i)).trans h.records) ha hs

theorem Cleared.setEntry (h : Cleared i s) {e : Entry} (he : e.records = 0) : Cleared i (s.setEntry i e) :=
  h.of_window (fun j hj => setEntry_entry_ne s i e hj) (by rw [setEntry_entry_same]; exact he) rfl rfl

theorem Cleared.modSource (h : Cleared i s) {f : SourceCtx → SourceCtx} (hf : ∀ c, (f c).queue = c.queue) :
    Cleared i (s.modSource i f) := by
  cases hc : s.source? i with
  | none => rw [modSource_none f hc]; exact h
  | some c =>
      rw [modSource_some f hc]
      refine h.setEntry ?_
      have empty := h.records
      simp only [Entry.records, source?_eq_some.mp hc] at empty
      simpa [Entry.records, hf] using empty

theorem Cleared.place (h : Cleared i s) (id : StreamId) (epoch : Epoch) (b : Body) : Cleared i (place id epoch b s) := by
  rw [place_frame]
  exact h.congr rfl rfl rfl

theorem Cleared.raise (h : Cleared i s) (x : Cause) : Cleared i (raise x s) := h.congr rfl rfl rfl

theorem Cleared.noticeWin (h : Cleared i s) (j : WinIdx) : Cleared i (noticeWin j s) := h.congr rfl rfl rfl

/-! ### The transitions that discard -/

theorem discard_cleared (h : JournalOk s) (i : WinIdx) : Cleared i (discard i s) := by
  cases hc : s.source? i with
  | none =>
      rw [discard_none hc]
      refine h.discarded (fun _ _ => rfl) ?_ rfl rfl
      change (s.entry i).records = 0
      rw [← recordCount_eq]
      exact recordCount_of_source?_none hc
  | some c =>
      rw [discard_eq hc]
      exact h.discarded (fun j hj => by rw [afterDiscard_entry, if_neg hj]) (by rw [afterDiscard_entry, if_pos rfl]; rfl)
        rfl rfl

theorem enterOpening_cleared (h : Cleared i s) (r : OpenReason) : Cleared i (enterOpening i r s) := by
  cases hc : s.source? i with
  | none => simpa only [enterOpening, hc] using h
  | some c =>
      rw [enterOpening_eq hc]
      refine (h.setEntry ?_).place _ _ _
      have empty := h.records
      simp only [Entry.records, source?_eq_some.mp hc] at empty
      exact empty

theorem openOrPend_cleared (h : Cleared i s) (r : OpenReason) : Cleared i (openOrPend i r s) := by
  unfold openOrPend
  split
  · exact enterOpening_cleared h r
  · exact h.modSource fun _ => rfl

theorem reseed_cleared (h : JournalOk s) (i : WinIdx) : Cleared i (reseed i s) := by
  unfold reseed
  refine openOrPend_cleared ((((discard_cleared h i).modSource ?_).noticeWin i).raise _) _
  exact fun _ => rfl

theorem faultStream_cleared (h : JournalOk s) (i : WinIdx) (r : FaultReason) : Cleared i (faultStream i r s) := by
  unfold faultStream
  refine (((discard_cleared h i).modSource ?_).noticeWin i).raise _
  exact fun _ => rfl

theorem enterClosed_cleared (h : JournalOk s) (i : WinIdx) : Cleared i (enterClosed i s) := by
  unfold enterClosed
  exact (discard_cleared h i).modSource fun _ => rfl

theorem enterClosing_cleared (h : JournalOk s) (i : WinIdx) : Cleared i (enterClosing i s) := by
  unfold enterClosing
  dsimp only
  have closing := (discard_cleared h i).modSource (f := fun c => { c with
    state := .closing, openReason := none, retxTimer := none, triesLeft := Config.controlTries - 1
    ctlTimer := some (discard i s).settings.controlTimeout }) fun _ => rfl
  split
  · exact closing.place _ _ _
  · exact closing

theorem yieldIfOn_cleared (h : Cleared i s) : Cleared i (yieldIfOn i s) := by
  unfold yieldIfOn
  split
  · exact (h.setEntry rfl).noticeWin i
  · exact h

end Clearing

end Sys2Proof.Machine
end

section
/-! SUPPORT. What the source and the sink side of a stream do keeps the journal in order: frees, rewinds and suspensions take
records or leave them (R52 to R54, R74), FENCE asks for its slot (R57), and a sink stream has no part in the journal. -/

namespace Sys2Proof.Machine

variable {s t : State} {i : WinIdx}

/-! ### Changes that the invariant does not look at -/

theorem raise_journalKept (x : Cause) : JournalKept s (raise x s) := JournalKept.of_eq rfl rfl rfl

theorem noticeWin_journalKept (i : WinIdx) : JournalKept s (noticeWin i s) := JournalKept.of_eq rfl rfl rfl

theorem release_journalKept : JournalKept s (release s) := JournalKept.of_eq rfl rfl rfl

theorem countStale_journalKept : JournalKept s (countStale s) := JournalKept.of_eq rfl rfl rfl

theorem setCtlSlot_journalKept (id : StreamId) (f : Option CtlFrame) : JournalKept s (setCtlSlot id f s) :=
  JournalKept.of_eq rfl rfl rfl

theorem setAckFlag_journalKept (id : StreamId) (f : Option AckFlag) : JournalKept s (setAckFlag id f s) :=
  JournalKept.of_eq rfl rfl rfl

theorem place_journalKept (id : StreamId) (epoch : Epoch) (b : Body) : JournalKept s (place id epoch b s) := by
  rw [place_frame]
  exact JournalKept.of_eq rfl rfl rfl

/-! ### A holder replaced -/

/-- The seed engine replaced by one in order that holds no more slots. -/
theorem JournalOk.setSeed (h : JournalOk s) {e : SeedEngine} (ok : e.Ok s.mirrors s.walkEnds)
    (le : ∀ j, slotsAgainst e.resv j ≤ slotsAgainst s.seed.resv j) : JournalOk { s with seed := e } :=
  h.of_le (t := { s with seed := e }) (fun j => Nat.add_le_add_left (Nat.add_le_add_left (le j) _) _) (fun _ => .inl rfl)
    (fun _ m => .inl m) h.acc ok

/-- The access unit likewise. -/
theorem JournalOk.setAcc (h : JournalOk s) {a : AccessUnit} (ok : a.Ok s.mirrors)
    (le : ∀ j, slotsAgainst a.resv j ≤ slotsAgainst s.acc.resv j) : JournalOk { s with acc := a } :=
  h.of_le (t := { s with acc := a }) (fun j => Nat.add_le_add_left (Nat.add_le_add_right (le j) _) _) (fun _ => .inl rfl)
    (fun _ m => .inl m) ok h.seed

/-! ### The source side -/

theorem SeedEngine.Ok.joined {m : WinIdx → Bool} {ends : WinIdx → Nat → Bool} {e : SeedEngine} (h : e.Ok m ends)
    (hm : m i = true) : ({ e with queue := e.queue ++ [i] } : SeedEngine).Ok m ends where
  queue j hj := by
    rcases List.mem_append.mp hj with k | k
    · exact h.queue j k
    · rw [List.mem_singleton.mp k]; exact hm
  active := h.active
  noFifth := h.noFifth
  resv r hr := by
    obtain ⟨keeps, w | ⟨f, w⟩⟩ := h.resv r hr
    · exact ⟨keeps, .inl { w with }⟩
    · exact ⟨keeps, .inr ⟨f, { w with }⟩⟩
  reading := h.reading

theorem joinSeedQueue_journalOk (h : JournalOk s) (hm : s.mirrors i = true) : JournalOk (joinSeedQueue i s) :=
  h.setSeed (h.seed.joined hm) fun _ => Nat.le_refl _

theorem endFence_journalKept (i : WinIdx) (x : FenceOutcome) (tag : Tag) : JournalKept s (endFence i x tag s) := by
  have ended : JournalKept s (s.modSource i fun c => { c with fence := none, lastFence := some (x, tag) }) :=
    modSource_journalKept fun c _ => ⟨Nat.le_refl _, fun m => ⟨m, rfl⟩⟩
  exact (ended.trans (noticeWin_journalKept i)).trans (raise_journalKept _)

theorem seedEndFreed_journalKept (i : WinIdx) : JournalKept s (seedEndFreed i s) := by
  unfold seedEndFreed
  split
  · split
    · have live : JournalKept s (s.modSource i fun c => { c with state := .live }) :=
        modSource_journalKept fun c _ => ⟨Nat.le_refl _, fun _ => ⟨rfl, rfl⟩⟩
      exact (live.trans (noticeWin_journalKept i)).trans (raise_journalKept _)
    · exact JournalKept.refl s
  · exact JournalKept.refl s

theorem freeBefore_journalKept (i : WinIdx) (e : Seq) : JournalKept s (freeBefore i e s) := by
  unfold freeBefore
  split
  · exact JournalKept.refl s
  · rename_i c _
    dsimp only
    have freed : JournalKept s (s.modSource i fun d =>
        { d with queue := d.queue.drop (e - c.oldest).toNat, oldest := e }) :=
      modSource_journalKept fun d _ => ⟨by simp, fun m => ⟨m, rfl⟩⟩
    generalize (s.modSource i fun d => { d with queue := d.queue.drop (e - c.oldest).toNat, oldest := e }) = u at freed ⊢
    have released : JournalKept s (if (e - c.oldest).toNat = 0 then u else release u) := by
      split
      · exact freed
      · exact freed.trans release_journalKept
    generalize (if (e - c.oldest).toNat = 0 then u else release u) = v at released ⊢
    have fenced : JournalKept s (match freedMark (c.queue.take (e - c.oldest).toNat) with
        | some tag => endFence i .completed tag v
        | none => v) := by
      split
      · exact released.trans (endFence_journalKept i _ _)
      · exact released
    split
    · exact fenced.trans (seedEndFreed_journalKept i)
    · exact fenced

theorem suspendSource_journalOk (h : JournalOk s) (i : WinIdx) (p : Prior) : JournalOk (suspendSource i p s) := by
  unfold suspendSource
  dsimp only
  have ready : JournalKept s (s.modSource i fun c =>
      { c with state := .suspended, prior := p, retxTimer := none, queue := c.queue.map Record.toReady }) :=
    modSource_journalKept fun c _ => ⟨by simp, fun _ => ⟨rfl, rfl⟩⟩
  generalize (s.modSource i fun c =>
    { c with state := .suspended, prior := p, retxTimer := none, queue := c.queue.map Record.toReady }) = u at ready ⊢
  have released : JournalOk (if u.seed.phase = .portWait ∧ u.seed.active = some i then release u else u) := by
    split
    · exact h.kept (ready.trans release_journalKept)
    · exact h.kept ready
  exact released.setSeed released.seed.suspend (slotsAgainst_le (SeedEngine.suspend_resv _ i))

/-- A stream that keeps no journal changes its context and its records stay none. -/
theorem modSource_bare {f : SourceCtx → SourceCtx} {c : SourceCtx} (hc : s.source? i = some c)
    (hb : c.state.journals = false) (hf : (f c).queue = c.queue) : JournalKept s (s.modSource i f) := by
  refine modSource_journalKept fun d hd => ?_
  obtain rfl : c = d := Option.some.inj (hc.symm.trans hd)
  exact ⟨Nat.le_of_eq (congrArg List.length hf), fun m => absurd (hb.symm.trans m) Bool.false_ne_true⟩

theorem sourceLinkLeft_journalOk (h : JournalOk s) (i : WinIdx) : JournalOk (sourceLinkLeft s i) := by
  unfold sourceLinkLeft
  split
  · exact h
  · rename_i c hc
    split
    · exact suspendSource_journalOk h i _
    · exact suspendSource_journalOk h i _
    · rename_i hs
      exact h.kept (modSource_bare hc (by rw [hs]; rfl) rfl)
    · exact h.kept (modSource_journalKept fun c _ => ⟨Nat.le_refl _, fun _ => ⟨rfl, rfl⟩⟩)
    · exact (enterClosed_cleared h i).journalOk
    · exact h

theorem bare_of_state {c : SourceCtx} (hc : s.source? i = some c) (hb : c.state.journals = false) :
    s.mirrors i = false :=
  (mirrors_of_source hc).trans hb

theorem sourceLinkUp_journalOk (h : JournalOk s) (i : WinIdx) : JournalOk (sourceLinkUp s i) := by
  unfold sourceLinkUp
  split
  · exact h
  · rename_i c hc
    split
    · rename_i hs
      exact (enterOpening_cleared (h.cleared (bare_of_state hc (by rw [hs]; rfl))) _).journalOk
    · refine h.kept (JournalKept.trans ?_ (place_journalKept _ _ _))
      exact modSource_journalKept fun c _ => ⟨Nat.le_refl _, fun _ => ⟨rfl, rfl⟩⟩
    · exact h

theorem takeContinue_journalOk (h : JournalOk s) (i : WinIdx) (e : Seq) : JournalOk (takeContinue i e s) := by
  unfold takeContinue
  dsimp only
  have resumed : JournalKept s (s.modSource i fun c =>
      { c with retryCount := 0, state := match c.prior with | .seeding => .seeding | .live => .live }) :=
    modSource_journalKept fun c _ => ⟨Nat.le_refl _, fun _ => ⟨by cases c.prior <;> rfl, rfl⟩⟩
  have freed := resumed.trans (freeBefore_journalKept i e)
  generalize freeBefore i e _ = u at freed ⊢
  have pointed : JournalKept s (u.modSource i fun c => { c with txPtr := e }) :=
    freed.trans (modSource_journalKept fun c _ => ⟨Nat.le_refl _, fun m => ⟨m, rfl⟩⟩)
  generalize (u.modSource i fun c => { c with txPtr := e }) = v at pointed ⊢
  have ok := h.kept pointed
  split
  · rename_i c hc
    split
    · rename_i seeding
      exact joinSeedQueue_journalOk ok ((mirrors_of_source hc).trans (by rw [seeding.1]; rfl))
    · exact ok
  · exact ok

theorem takeReopenReply_journalOk (h : JournalOk s) (c : SourceCtx) (v : Verdict) (e : Seq) :
    JournalOk (takeReopenReply i c v e s) := by
  unfold takeReopenReply
  dsimp only
  have stopped : JournalOk (s.modSource i fun c => { c with ctlTimer := none, triesLeft := 0 }) :=
    h.kept (modSource_journalKept fun c _ => ⟨Nat.le_refl _, fun m => ⟨m, rfl⟩⟩)
  split
  · exact takeContinue_journalOk stopped i e
  · exact (reseed_cleared stopped i).journalOk

theorem takeAck_journalKept (c : SourceCtx) (a : Seq) : JournalKept s (takeAck i c a s) := by
  unfold takeAck
  split
  · refine JournalKept.trans ?_ (freeBefore_journalKept i _)
    exact modSource_journalKept fun c _ => ⟨Nat.le_refl _, fun m => ⟨m, rfl⟩⟩
  · exact countStale_journalKept

theorem takeNak_journalKept (c : SourceCtx) (a : Seq) : JournalKept s (takeNak i c a s) := by
  unfold takeNak
  split
  · refine (freeBefore_journalKept i a).trans ?_
    exact modSource_journalKept fun c _ => ⟨by simp [SourceCtx.rewind], fun m => ⟨m, rfl⟩⟩
  · exact countStale_journalKept

theorem takePromoted_journalOk (h : JournalOk s) (c : SourceCtx) (l : Seq) : JournalOk (takePromoted i c l s) := by
  unfold takePromoted
  dsimp only
  refine (yieldIfOn_cleared (faultStream_cleared ?_ i _)).journalOk
  split
  · have pointed : ∀ u ptr, JournalKept u (u.modSource i fun d : SourceCtx => { d with txPtr := ptr }) :=
      fun u ptr => modSource_journalKept fun d _ => ⟨Nat.le_refl _, fun m => ⟨m, rfl⟩⟩
    exact h.kept ((freeBefore_journalKept i (l + 1#16)).trans (pointed _ _))
  · exact h

/-- A stream accepted in OPENING begins its walk (R64, R106). -/
theorem acceptSeed_journalOk (h : JournalOk s) {c : SourceCtx} {f : SourceCtx → SourceCtx} (hc : s.source? i = some c)
    (hb : c.state.journals = false) (hq : (f c).queue = c.queue) (hf : (f c).state.journals = true) :
    JournalOk (joinSeedQueue i (s.modSource i f)) := by
  have ctx : (s.modSource i f).source? i = some (f c) := by rw [modSource_source?, if_pos rfl, hc, Option.map_some]
  exact joinSeedQueue_journalOk (h.kept (modSource_bare hc hb hq)) ((mirrors_of_source ctx).trans hf)

/-- A frame of the context's epoch, whatever the state of the context (R102). -/
theorem takeAtSource_journalOk (h : JournalOk s) {c : SourceCtx} (hc : s.source? i = some c) (b : Body) :
    JournalOk (takeAtSource i c b s) := by
  have fault : ∀ r, JournalOk (faultStream i r s) := fun r => (faultStream_cleared h i r).journalOk
  have closed := enterClosed_cleared h i
  have stale : JournalOk (countStale s) := h.kept countStale_journalKept
  unfold takeAtSource
  generalize hs : c.state = st
  cases st with
  | opening =>
      cases b with
      | openAccept => exact acceptSeed_journalOk h hc (by rw [hs]; rfl) rfl rfl
      | openRefuse r => exact fault _
      | close r => exact fault _
      | _ => exact stale
  | seeding | live =>
      cases b with
      | ack a => exact h.kept (takeAck_journalKept c a)
      | nak a => exact h.kept (takeNak_journalKept c a)
      | close r => exact fault _
      | promoted l d => exact takePromoted_journalOk h c l
      | _ => exact stale
  | resuming =>
      cases b with
      | reopenReply v e => exact takeReopenReply_journalOk h c v e
      | close r => exact fault _
      | promoted l d => exact takePromoted_journalOk h c l
      | _ => exact stale
  | closing =>
      cases b with
      | closeAck => exact closed.journalOk
      | close r => exact closed.journalOk
      | promoted l d => exact (yieldIfOn_cleared closed).journalOk
      | _ => exact stale
  | _ => exact stale

theorem sourceFrame_journalOk (h : JournalOk s) (i : WinIdx) (epoch : Epoch) (b : Body) :
    JournalOk (sourceFrame i epoch b s) := by
  unfold sourceFrame
  split
  · rename_i c hc
    split
    · exact takeAtSource_journalOk h hc b
    · exact h.kept countStale_journalKept
  · exact h.kept countStale_journalKept

theorem retxExpired_journalOk (h : JournalOk s) (c : SourceCtx) : JournalOk (retxExpired i c s) := by
  unfold retxExpired
  split
  case h_1 | h_2 =>
    split
    · exact h.kept (modSource_journalKept fun c _ => ⟨by simp [SourceCtx.rewind], fun m => ⟨m, rfl⟩⟩)
    · exact (faultStream_cleared h i _).journalOk
  case h_3 => exact h.kept (modSource_journalKept fun c _ => ⟨Nat.le_refl _, fun m => ⟨m, rfl⟩⟩)

theorem placeControl_journalKept (c : SourceCtx) : JournalKept s (placeControl i c s) := by
  unfold placeControl
  split
  · exact place_journalKept _ _ _
  · exact place_journalKept _ _ _
  · exact place_journalKept _ _ _
  · exact JournalKept.refl s

theorem ctlAgain_journalOk (h : JournalOk s) (c : SourceCtx) {f : State → State} (hf : JournalOk (f s)) :
    JournalOk (ctlAgain i c f s) := by
  unfold ctlAgain
  split
  · refine h.kept (JournalKept.trans ?_ (placeControl_journalKept c))
    exact modSource_journalKept fun c _ => ⟨Nat.le_refl _, fun m => ⟨m, rfl⟩⟩
  · exact hf

theorem ctlExpired_journalOk (h : JournalOk s) (c : SourceCtx) : JournalOk (ctlExpired i c s) := by
  unfold ctlExpired
  split
  case h_1 | h_2 => exact ctlAgain_journalOk h c (faultStream_cleared h i _).journalOk
  case h_3 => exact ctlAgain_journalOk h c (enterClosed_cleared h i).journalOk
  case h_4 => exact h.kept (modSource_journalKept fun c _ => ⟨Nat.le_refl _, fun m => ⟨m, rfl⟩⟩)

/-! ### Operations on a source stream -/

section SameState

variable {c d : SourceCtx} (hc : s.source? i = some c) (hs : d.state = c.state)
include hc hs

/-- A context that keeps its state keeps its journal or none. -/
theorem setSource_mirrors : (s.setRole i (.source d)).mirrors = s.mirrors := by
  funext j
  rw [State.mirrors, setRole_source?]
  split
  · rename_i hj
    rw [hj, mirrors_of_source hc, ← hs]
    rfl
  · rfl

omit hs in
theorem setSource_walkEnds (hu : d.cursor = c.cursor) : (s.setRole i (.source d)).walkEnds = s.walkEnds := by
  funext j n
  rw [walkEnds_eq, walkEnds_eq, setRole_entry]
  split
  · rename_i hj
    rw [hj]
    simp only [Entry.walkEnds, source?_eq_some.mp hc, hu]
  · rfl

omit hc hs in
theorem setSource_records (j : WinIdx) : ((s.setRole i (.source d)).entry j).records =
    if j = i then d.queue.length else (s.entry j).records := by
  rw [setRole_entry]
  split <;> rfl

omit hc hs in
theorem setSource_quota (j : WinIdx) : ((s.setRole i (.source d)).entry j).quota = (s.entry j).quota := by
  rw [setRole_entry]
  split
  · rename_i hj
    rw [hj]
  · rfl

end SameState

theorem records_of_source {c : SourceCtx} (hc : s.source? i = some c) : (s.entry i).records = c.queue.length := by
  simp only [Entry.records, source?_eq_some.mp hc]

/-- Records join a queue in slots that the reservation test has found free (R44). -/
theorem JournalOk.push (h : JournalOk s) {c d : SourceCtx} {k : Nat} (hc : s.source? i = some c)
    (hj : c.state.journals = true) (hr : s.reserveOk i k = true) (hq : d.queue.length ≤ c.queue.length + k)
    (hs : d.state = c.state) (hu : d.cursor = c.cursor) : JournalOk (s.setRole i (.source d)) := by
  have mirrors := setSource_mirrors hc hs
  have walks := setSource_walkEnds hc hu
  refine h.of_reserve hr ?_ (fun j hj => ?_) setSource_quota (fun j m => ?_) ?_ ?_ ?_
  · rw [claims_eq, claims_eq, setSource_records, if_pos rfl, records_of_source hc]
    change d.queue.length + s.reservedCount i ≤ _
    omega
  · rw [claims_eq, claims_eq, setSource_records, if_neg hj]
    exact Nat.le_refl _
  · rw [mirrors]
    exact m
  · rw [mirrors, mirrors_of_source hc, hj]
  · rw [mirrors]
    exact h.acc
  · rw [mirrors, walks]
    exact h.seed

theorem fenceSource_journalOk (h : JournalOk s) {c : SourceCtx} (hc : s.source? i = some c) (tag : Tag) :
    JournalOk (fenceSource i c tag s).1 := by
  unfold fenceSource
  split
  · exact h
  · rename_i journals
    split
    · exact h
    · split
      · exact h
      · rename_i free
        dsimp only
        rw [modSource_some _ hc]
        exact h.push hc (by simpa using journals) (by simpa using free) (by simp [SourceCtx.push]) rfl rfl

theorem openSource_journalOk (h : JournalOk s) {c : SourceCtx} (hc : s.source? i = some c) :
    JournalOk (openSource i c s).1 := by
  unfold openSource
  split
  · rename_i closed
    exact (openOrPend_cleared (h.cleared (bare_of_state hc (by rw [closed]; rfl))) _).journalOk
  · exact h

theorem closeSource_journalOk (h : JournalOk s) (c : SourceCtx) : JournalOk (closeSource i c s).1 := by
  unfold closeSource
  split
  case h_1 => exact h
  case h_2 | h_3 | h_4 | h_5 => exact (enterClosed_cleared h i).journalOk
  all_goals exact (enterClosing_cleared h i).journalOk

theorem reseedSource_journalOk (h : JournalOk s) (c : SourceCtx) : JournalOk (reseedSource i c s).1 := by
  unfold reseedSource
  split
  case h_1 | h_2 | h_3 | h_4 | h_5 => exact (reseed_cleared h i).journalOk
  all_goals exact h

end Sys2Proof.Machine
end

section
/-! SUPPORT. The sink side, the link's transitions and the frames it receives keep the journal in order (R82 to R94, R122 to
R146). -/

namespace Sys2Proof.Machine

variable {s : State} {i : WinIdx}

/-! ### The sink side -/

theorem flag_journalKept (id : StreamId) (f : AckFlag) : JournalKept s (flag id f s) := by
  unfold flag
  split
  · exact setAckFlag_journalKept _ _
  · exact JournalKept.refl s

theorem withdrawApply_journalKept (k : WinIdx) : JournalKept s (withdrawApply k s) := by
  unfold withdrawApply
  split
  · exact JournalKept.of_eq rfl rfl rfl
  · exact JournalKept.refl s

theorem flagAck_journalKept (id : StreamId) (c : SinkCtx) : JournalKept s (flagAck id c s) := by
  unfold flagAck
  split
  · split
    · exact JournalKept.refl s
    · exact flag_journalKept _ _
  · exact flag_journalKept _ _

theorem refreshAck_journalKept (id : StreamId) (c : SinkCtx) : JournalKept s (refreshAck id c s) := by
  unfold refreshAck
  split
  · split
    · exact JournalKept.refl s
    · exact setAckFlag_journalKept _ _
  · exact JournalKept.refl s

theorem nakOnce_journalKept : JournalKept s (nakOnce i s) := by
  unfold nakOnce
  split
  · split
    · exact JournalKept.refl s
    · exact (modSink_journalKept _).trans (flag_journalKept _ _)
  · exact JournalKept.refl s

theorem applyMarker_journalKept (r : RecBody) : JournalKept s (applyMarker i r s) := by
  cases hc : s.sink? i with
  | none =>
      have same : applyMarker i r s = s := by simp [applyMarker, modSink_none _ hc, hc]
      rw [same]
      exact JournalKept.refl s
  | some c =>
      obtain ⟨m, d, u, hu, marked⟩ := applyMarker_some hc r
      have acked : JournalKept s u := hu ▸ (modSink_journalKept m).trans (flagAck_journalKept _ d)
      rcases marked with same | live
      · rw [same]
        exact acked
      · rw [live]
        exact acked.trans (((modSink_journalKept _).trans (noticeWin_journalKept i)).trans (raise_journalKept _))

theorem discardUnusable_journalKept : JournalKept s (discardUnusable i s) :=
  ((modSink_journalKept _).trans countStale_journalKept).trans nakOnce_journalKept

theorem applyTest_journalKept (n : Nat) : JournalKept s (applyTest i n s) := by
  induction n generalizing s with
  | zero => exact JournalKept.refl s
  | succ n ih =>
      unfold applyTest
      split
      · split
        · exact (applyMarker_journalKept _).trans ih
        · exact discardUnusable_journalKept
        · exact JournalKept.refl s
      · exact JournalKept.refl s

theorem completeApply_journalKept (v : Served) : JournalKept s (completeApply v s) := by
  have test : ∀ u, JournalKept s u → JournalKept s (applyTest v.win 5 u) := fun u k => k.trans (applyTest_journalKept 5)
  unfold completeApply
  dsimp only
  generalize hm : s.modSink v.win _ = t
  have modified : JournalKept s t := hm ▸ modSink_journalKept _
  split
  · rename_i b c _ _
    split
    · have fresh := modified.trans (refreshAck_journalKept (t.streamOf v.win) c)
      refine test _ ?_
      split
      · exact fresh.trans (flagAck_journalKept _ _)
      · exact fresh
    · exact modified
  · exact modified

theorem closeSinkCtx_journalKept (r : CloseReason) : JournalKept s (closeSinkCtx i r s) :=
  ((modSink_journalKept _).trans (setAckFlag_journalKept _ _)).trans (withdrawApply_journalKept i)

theorem applyErrorClose_journalKept : JournalKept s (applyErrorClose i s) := by
  unfold applyErrorClose
  split
  · have closed := ((closeSinkCtx_journalKept (i := i) (s := s) .applyError).trans (noticeWin_journalKept i)).trans
      (raise_journalKept .streamClosed)
    dsimp only
    split
    · exact closed
    · exact closed.trans (place_journalKept _ _ _)
  · exact JournalKept.refl s

theorem sinkLinkLeft_journalKept (i : WinIdx) : JournalKept s (sinkLinkLeft s i) := by
  unfold sinkLinkLeft
  split
  · split
    · exact (modSink_journalKept _).trans (withdrawApply_journalKept i)
    · exact (modSink_journalKept _).trans (withdrawApply_journalKept i)
    · exact JournalKept.refl s
  · exact JournalKept.refl s

theorem newPairing_journalKept (epoch : Epoch) : JournalKept s (newPairing i epoch s) :=
  (((modSink_journalKept _).trans (setAckFlag_journalKept _ _)).trans (withdrawApply_journalKept i)).trans
    (place_journalKept _ _ _)

theorem giveContinue_journalKept (c : SinkCtx) : JournalKept s (giveContinue i c s) :=
  (((place_journalKept _ _ _).trans (modSink_journalKept _)).trans (setAckFlag_journalKept _ _)).trans
    (withdrawApply_journalKept i)

theorem holdRecord_journalKept (c : SinkCtx) (r : RecBody) : JournalKept s (holdRecord i c r s) := by
  unfold holdRecord
  dsimp only
  split
  · exact ((modSink_journalKept _).trans nakOnce_journalKept).trans (applyTest_journalKept 5)
  · exact (modSink_journalKept _).trans (applyTest_journalKept 5)

theorem admission_journalKept (c : SinkCtx) (r : RecBody) : JournalKept s (admission i c r s) := by
  unfold admission
  split
  · exact countStale_journalKept
  · split
    · split
      · exact modSink_journalKept _
      · exact holdRecord_journalKept c r
    · split
      · exact (modSink_journalKept _).trans (flagAck_journalKept _ _)
      · exact (modSink_journalKept _).trans nakOnce_journalKept

theorem recordAtCtx_journalKept (c : SinkCtx) (epoch : Epoch) (r : RecBody) :
    JournalKept s (recordAtCtx i c epoch r s) := by
  unfold recordAtCtx
  split
  · exact countStale_journalKept
  · dsimp only
    have back : JournalKept s
        (if c.state = .suspended then s.modSink i fun c => { c with state := c.prior.sinkState } else s) := by
      split
      · exact modSink_journalKept _
      · exact JournalKept.refl s
    split
    · exact back.trans (admission_journalKept _ r)
    · exact back

theorem ackExpired_journalKept (c : SinkCtx) : JournalKept s (ackExpired i c s) := by
  unfold ackExpired
  dsimp only
  split
  · exact (modSink_journalKept _).trans (flagAck_journalKept _ _)
  · exact modSink_journalKept _

theorem closeSink_journalKept (c : SinkCtx) : JournalKept s (closeSink i c s).1 := by
  unfold closeSink
  split
  · exact JournalKept.refl s
  · exact (closeSinkCtx_journalKept _).trans (place_journalKept _ _ _)

/-- A promoted window keeps no journal before and holds no record after (R146). -/
theorem promote_journalKept {c : SinkCtx} (hc : s.sink? i = some c) : JournalKept s (promote i c s) := by
  unfold promote
  dsimp only
  generalize hw : withdrawApply i (setAckFlag (s.streamOf i) none s) = t
  have withdrawn : JournalKept s t := hw ▸ (setAckFlag_journalKept _ _).trans (withdrawApply_journalKept i)
  have bare : (t.entry i).mirrors = false := by
    have same : t.entry i = s.entry i := by
      rw [← hw]
      unfold withdrawApply
      split <;> rfl
    rw [same]
    simp [Entry.mirrors, sink?_eq_some.mp hc]
  have promoted := withdrawn.trans (setEntry_journalKept (i := i) (Entry.Tame.of_bare
    (f := { t.entry i with
      role := .source (newSource c.epoch)
      promotion := some { epoch := c.epoch, lastApplied := c.expected - 1#16,
                          discarded := (c.held.filter (!·.underOp)).length } }) bare rfl))
  exact (promoted.trans (place_journalKept _ _ _)).trans (noticeWin_journalKept i)

theorem promoteSink_journalKept {c : SinkCtx} (hc : s.sink? i = some c) : JournalKept s (promoteSink i c s).1 := by
  unfold promoteSink
  split
  · exact JournalKept.refl s
  · split
    · exact JournalKept.refl s
    · exact promote_journalKept hc

theorem clampAck_journalKept (i : WinIdx) : JournalKept s (clampAck s i) := by
  unfold clampAck
  split
  · split
    · dsimp only
      split
      · exact (modSink_journalKept _).trans (flagAck_journalKept _ _)
      · exact modSink_journalKept _
    · exact JournalKept.refl s
  · exact JournalKept.refl s

/-! ### Frames at the sink side -/

theorem openAtSink_journalKept (id : StreamId) (epoch : Epoch) (length : Word) :
    JournalKept s (openAtSink id epoch length s) := by
  unfold openAtSink
  split
  · exact place_journalKept _ _ _
  · split
    · exact place_journalKept _ _ _
    · split
      · exact place_journalKept _ _ _
      · split
        · exact place_journalKept _ _ _
        · exact newPairing_journalKept _

theorem reopenAtSink_journalKept (id : StreamId) (epoch : Epoch) (o n : Seq) :
    JournalKept s (reopenAtSink id epoch o n s) := by
  unfold reopenAtSink
  split
  · exact place_journalKept _ _ _
  · split
    · split
      · exact giveContinue_journalKept _
      · exact place_journalKept _ _ _
    · exact place_journalKept _ _ _

theorem closeAtSink_journalKept (id : StreamId) (epoch : Epoch) : JournalKept s (closeAtSink id epoch s) := by
  unfold closeAtSink
  split
  · split
    · exact (((closeSinkCtx_journalKept .peer).trans (noticeWin_journalKept _)).trans (raise_journalKept _)).trans
        (place_journalKept _ _ _)
    · exact place_journalKept _ _ _
  · exact place_journalKept _ _ _

theorem recordAtSink_journalKept (id : StreamId) (epoch : Epoch) (r : RecBody) :
    JournalKept s (recordAtSink id epoch r s) := by
  unfold recordAtSink
  split
  · exact place_journalKept _ _ _
  · split
    · split
      · exact place_journalKept _ _ _
      · exact recordAtCtx_journalKept _ _ _
    · exact place_journalKept _ _ _

/-! ### The link -/

theorem JournalOk.foldl {f : State → WinIdx → State} (hf : ∀ u, JournalOk u → ∀ j, JournalOk (f u j))
    (l : List WinIdx) (h : JournalOk s) : JournalOk (l.foldl f s) := by
  induction l generalizing s with
  | nil => exact h
  | cons j l ih => exact ih (hf s h j)

theorem modLink_journalKept (f : Link → Link) : JournalKept s (modLink f s) := JournalKept.of_eq rfl rfl rfl

theorem modCounters_journalKept (f : LinkCounters → LinkCounters) : JournalKept s (modCounters f s) :=
  modLink_journalKept _

theorem leaveUp_journalOk (h : JournalOk s) : JournalOk (leaveUp s) := by
  have cleared : JournalOk (clearSched (modLink Link.left s)) := h.congr rfl rfl rfl
  have sources := cleared.foldl (fun _ k j => sourceLinkLeft_journalOk k j) allWindows
  exact sources.foldl (fun _ k j => k.kept (sinkLinkLeft_journalKept j)) allWindows

theorem goDown_journalOk (h : JournalOk s) : JournalOk (goDown s) := by
  unfold goDown
  split
  · exact leaveUp_journalOk h
  · exact h.kept (modLink_journalKept _)
  · exact h

theorem tryTrain_journalKept : JournalKept s (tryTrain s) := by
  rw [tryTrain_frame]
  exact JournalKept.of_eq rfl rfl rfl

theorem dropLink_journalOk (h : JournalOk s) : JournalOk (dropLink s) :=
  (goDown_journalOk h).kept tryTrain_journalKept

theorem enterUp_journalOk (h : JournalOk s) : JournalOk (enterUp s) := by
  have raised : JournalOk (raise .linkUp (modLink (fun l => l.entered s.settings) s)) := h.congr rfl rfl rfl
  exact raised.foldl (fun _ k j => sourceLinkUp_journalOk k j) allWindows

theorem laneRise_journalKept : JournalKept s (laneRise s) := by
  unfold laneRise
  split
  · exact JournalKept.refl s
  · exact (modLink_journalKept _).trans tryTrain_journalKept

theorem laneFall_journalOk (h : JournalOk s) : JournalOk (laneFall s) :=
  goDown_journalOk (h.kept (modLink_journalKept _))

/-! ### Received frames -/

theorem helloInTraining_journalOk (h : JournalOk s) (v : Byte) (heard : Bool) :
    JournalOk (helloInTraining v heard s) := by
  have marked : JournalOk (modLink (fun l => { l with heard := true }) s) := h.kept (modLink_journalKept _)
  unfold helloInTraining
  split
  · exact h.kept (modCounters_journalKept _)
  · dsimp only
    split
    · exact enterUp_journalOk marked
    · split
      · exact marked.kept (modLink_journalKept _)
      · exact marked

theorem helloInUp_journalOk (h : JournalOk s) (v : Byte) (heard : Bool) : JournalOk (helloInUp v heard s) := by
  unfold helloInUp
  split
  · exact h.kept (modCounters_journalKept _)
  · split
    · exact (h.kept (modLink_journalKept _)).kept (modLink_journalKept _)
    · exact dropLink_journalOk h

theorem dispatch_journalOk (h : JournalOk s) (id : StreamId) (epoch : Epoch) (b : Body) :
    JournalOk (dispatch id epoch b s) := by
  unfold dispatch
  split
  · exact h.kept (openAtSink_journalKept _ _ _)
  · exact h.kept (reopenAtSink_journalKept _ _ _ _)
  · exact h.kept (recordAtSink_journalKept _ _ _)
  · split
    · exact sourceFrame_journalOk h _ _ _
    · exact h.kept (closeAtSink_journalKept _ _)
  all_goals
    split
    · exact sourceFrame_journalOk h _ _ _
    · exact h.kept countStale_journalKept

theorem dispatchFrame_journalOk (h : JournalOk s) (f : Frame) : JournalOk (dispatchFrame f s) := by
  unfold dispatchFrame
  split
  · exact h
  · exact h
  · exact dispatch_journalOk h _ _ _

theorem validFrame_journalOk (h : JournalOk s) (f : Frame) : JournalOk (validFrame f s) := by
  unfold validFrame
  dsimp only
  have counted := h.kept (modCounters_journalKept fun c => { c with framesReceived := c.framesReceived + 1#32 })
  generalize modCounters (fun c => { c with framesReceived := c.framesReceived + 1#32 }) s = u at counted ⊢
  split
  · exact counted
  · exact helloInTraining_journalOk counted _ _
  · exact dispatchFrame_journalOk (enterUp_journalOk counted) _
  · exact helloInUp_journalOk counted _ _
  · exact dispatchFrame_journalOk (counted.kept (modLink_journalKept _)) _

theorem deliver_journalOk (h : JournalOk s) (f : Frame) : JournalOk (deliver f s) := by
  unfold deliver
  split
  · exact validFrame_journalOk h f
  · exact h.congr rfl rfl rfl

theorem deliverBytes_journalOk (h : JournalOk s) (bs : List Byte) : JournalOk (deliverBytes bs s) := by
  unfold deliverBytes
  split
  · exact h.congr rfl rfl rfl
  · exact h.congr rfl rfl rfl
  · exact validFrame_journalOk h _

theorem whenReceiving_journalOk {f : State → State} (hf : JournalOk (f s)) (h : JournalOk s) :
    JournalOk (whenReceiving f s) := by
  unfold whenReceiving
  split
  · exact h
  · exact hf

end Sys2Proof.Machine
end

section
/-! SUPPORT. The memory path keeps the journal in order: what the access unit reserves and journals (R9 to R16, R49, R50), what
the seed engine reserves, reads and fills (R66 to R77), and the end of an event. -/

namespace Sys2Proof.Machine

variable {s : State} {i : WinIdx} {a : Access} {c : SourceCtx}

/-! ### The access unit -/

theorem needsRecords_journals {n : Nat} (h : c.needsRecords n = true) : c.state.journals = true := by
  unfold SourceCtx.needsRecords at h
  split at h
  · rename_i hs; rw [hs]; rfl
  · rename_i hs; rw [hs]; rfl
  · rename_i hs; rw [hs]; rfl
  · rename_i hs; rw [hs]; rfl
  · cases h

/-- A response ends whatever the unit held (R3). -/
theorem respond_journalOk (h : JournalOk s) (ok : Bool) (d : List Byte) : JournalOk (respond ok d s) := by
  have idle : JournalOk { s with acc := { phase := .idle, resv := none, holdTimer := none } } :=
    h.setAcc (.of_rest rfl (.inl rfl)) fun _ => Nat.zero_le _
  exact idle.congr rfl rfl rfl

theorem requestPort_journalOk (h : JournalOk s) (form : a.formOk = true) : JournalOk (requestPort a none s) :=
  h.setAcc (.of_request form rfl rfl) fun _ => Nat.zero_le _

/-- A reservation that the test has found free (R9). -/
theorem requestPort_reserved (h : JournalOk s) (form : a.formOk = true) (write : a.isWrite = true)
    (keeps : s.mirrors i = true) (free : s.acc.resv = none) (ok : s.reserveOk i a.slots = true) :
    JournalOk (requestPort a (some { win := i, slots := a.slots }) s) := by
  have own : (requestPort a (some { win := i, slots := a.slots }) s).claims i ≤ s.claims i + a.slots := by
    simp only [State.claims, State.reservedCount, free]
    change s.recordCount i + (slotsAgainst (some { win := i, slots := a.slots }) i + slotsAgainst s.seed.resv i) ≤ _
    simp only [slotsAgainst, if_true]
    omega
  have others : ∀ j, j ≠ i → (requestPort a (some { win := i, slots := a.slots }) s).claims j ≤ s.claims j := fun j hj => by
    simp only [State.claims, State.reservedCount, free]
    change s.recordCount j + (slotsAgainst (some { win := i, slots := a.slots }) j + slotsAgainst s.seed.resv j) ≤ _
    simp [slotsAgainst, hj.symm]
  refine h.of_reserve ok own others (fun _ => rfl) (fun _ => id) keeps ⟨?_, ?_, ?_⟩ h.seed
  · exact fun x w e => by cases e
  · intro x e
    cases e
    refine ⟨form, fun r hr => ?_⟩
    cases hr
    exact ⟨write, rfl, keeps⟩
  · rintro (e | ⟨_, _, e⟩) <;> cases e

theorem holdWrite_journalOk (h : JournalOk s) (form : a.formOk = true) (write : a.isWrite = true)
    (keeps : s.mirrors i = true) : JournalOk (holdWrite a i s) := by
  refine h.setAcc ⟨fun x w e => ?_, fun x e => ?_, fun _ => rfl⟩ fun _ => Nat.zero_le _
  · cases e
    exact ⟨rfl, form, write, keeps⟩
  · cases e

theorem reserveWrite_journalOk (h : JournalOk s) (form : a.formOk = true) (write : a.isWrite = true)
    (hc : s.source? i = some c) (journals : c.state.journals = true) (free : s.acc.resv = none) :
    JournalOk (reserveWrite a i c s) := by
  have keeps : s.mirrors i = true := (mirrors_of_source hc).trans journals
  unfold reserveWrite
  split
  · rename_i ok; exact requestPort_reserved h form write keeps free ok
  · split
    · split
      · exact holdWrite_journalOk h form write keeps
      · exact requestPort_journalOk (reseed_cleared h i).journalOk form
    · exact requestPort_journalOk h form

theorem refuseWrite_journalOk (h : JournalOk s) : JournalOk (refuseWrite s) :=
  (respond_journalOk h false []).kept (raise_journalKept _)

theorem refuseRead_journalOk (h : JournalOk s) : JournalOk (refuseRead s) :=
  (respond_journalOk h false []).kept (raise_journalKept _)

theorem accept_journalOk (h : JournalOk s) (free : s.acc.resv = none) (a : Access) : JournalOk (accept a s) := by
  unfold accept
  split
  · exact respond_journalOk h false []
  · rename_i formed
    have form : a.formOk = true := by simpa using formed
    split
    · exact requestPort_journalOk h form
    · split
      · exact requestPort_journalOk h form
      · split
        · exact refuseWrite_journalOk h
        · split
          · exact refuseRead_journalOk h
          · exact requestPort_journalOk h form
      · rename_i c hc
        split
        · rename_i asks
          obtain ⟨write, journals⟩ := Bool.and_eq_true_iff.mp asks
          exact reserveWrite_journalOk h form write (source?_eq_some.mpr hc) journals free
        · exact requestPort_journalOk h form

theorem takePresented_journalOk (h : JournalOk s) : JournalOk (takePresented s) := by
  unfold takePresented
  split
  · rename_i idle _
    have taken : JournalOk { s with bus := { s.bus with presented := none } } := h.congr rfl rfl rfl
    exact accept_journalOk taken (h.acc.others (.inl idle)) _
  · exact h

theorem AccessUnit.Ok.unreserve {m : WinIdx → Bool} {u : AccessUnit} (h : u.Ok m) :
    ({ u with resv := none } : AccessUnit).Ok m where
  waits x w e := by
    obtain ⟨_, rest⟩ := h.waits x w e
    exact ⟨rfl, rest⟩
  requests x e := ⟨(h.requests x e).1, fun r hr => by cases hr⟩
  others _ := rfl

theorem returnResv_journalOk (h : JournalOk s) : JournalOk (returnResv s) := by
  unfold returnResv
  split
  · exact (h.setAcc h.acc.unreserve fun _ => Nat.zero_le _).kept release_journalKept
  · exact h

theorem returnResv_none (s : State) : (returnResv s).acc.resv = none := by
  unfold returnResv
  split
  · rfl
  · rename_i none; exact none

theorem beginAccess_journalOk (h : JournalOk s) (free : s.acc.resv = none) (a : Access) (j : Option Journaled) :
    JournalOk (beginAccess a j s) := by
  have granted : JournalOk { s with acc := { s.acc with phase := .granted a j } } :=
    h.setAcc (.of_rest free (.inr ⟨a, j, rfl⟩)) fun _ => Nat.le_refl _
  exact granted.congr rfl rfl rfl

/-- A merge replaces the tail record (R50). -/
theorem mergeTail_tame {d : SourceCtx} {n : Nat} (h : c.mergeTail a n = some d) : c.Tame d := by
  unfold SourceCtx.mergeTail at h
  split at h
  · rename_i r _ last
    obtain ⟨r', _, rfl⟩ := Option.map_eq_some_iff.mp h
    have nonempty : c.queue ≠ [] := fun e => by rw [e] at last; cases last
    have pos : 0 < c.queue.length := List.length_pos_iff.mpr nonempty
    refine ⟨?_, fun m => ⟨m, rfl⟩⟩
    simp only [List.length_append, List.length_dropLast, List.length_singleton]
    omega
  · cases h

/-- The records of a journaled write stand in the slots it has reserved (R10, R49). -/
theorem journalWrite_journalOk (h : JournalOk s) (form : a.formOk = true) (write : a.isWrite = true)
    (hc : s.source? i = some c) (held : slotsAgainst s.acc.resv i = a.slots) :
    JournalOk (journalWrite a i c s) ∧ (journalWrite a i c s).acc.resv = none := by
  unfold journalWrite
  dsimp only
  split
  · rename_i d merged
    exact ⟨returnResv_journalOk (h.kept (setSource_journalKept hc (mergeTail_tame merged))), returnResv_none _⟩
  · refine ⟨?_, rfl⟩
    generalize hd : c.push (writeRecords (s.streamOf i) c.nextSeq (s.offsetIn i a) a.bytes) = d
    have state : d.state = c.state := by rw [← hd]; rfl
    have cursor : d.cursor = c.cursor := by rw [← hd]; rfl
    have length : d.queue.length = c.queue.length + a.slots := by
      rw [← hd]
      simp only [SourceCtx.push, List.length_append, writeRecords_length, bytes_length write, slots_eq_pieces form]
    have mirrors := setSource_mirrors hc state
    have walks := setSource_walkEnds hc cursor
    have claims : ∀ j, State.claims { s.setRole i (.source d) with acc := { s.acc with resv := none } } j ≤ s.claims j :=
      fun j => by
        rw [claims_eq, claims_eq]
        change ((s.setRole i (.source d)).entry j).records + (0 + slotsAgainst s.seed.resv j) ≤
          _ + (slotsAgainst s.acc.resv j + slotsAgainst s.seed.resv j)
        rw [setSource_records]
        split
        · rename_i hj
          rw [hj, held, records_of_source hc, length]
          omega
        · omega
    refine h.of_le claims (fun j => .inl (setSource_quota j)) (fun j m => .inl ?_) ?_ ?_
    · exact (congrFun mirrors j).trans m
    · exact (congrArg (AccessUnit.Ok · _) mirrors).mpr h.acc.unreserve
    · have same : s.seed.Ok (s.setRole i (.source d)).mirrors (s.setRole i (.source d)).walkEnds := by
        rw [mirrors, walks]
        exact h.seed
      exact same

theorem grantWrite_journalOk (h : JournalOk s) (form : a.formOk = true) (write : a.isWrite = true)
    (hc : s.source? i = some c) : JournalOk (grantWrite a i c s) := by
  unfold grantWrite
  split
  · rename_i needs
    obtain ⟨_, held⟩ := Bool.and_eq_true_iff.mp needs
    obtain ⟨ok, free⟩ := journalWrite_journalOk h form write hc (beq_iff_eq.mp held)
    exact beginAccess_journalOk ok free _ _
  · exact beginAccess_journalOk (returnResv_journalOk h) (returnResv_none s) _ _

theorem grantAccess_journalOk (h : JournalOk s) : JournalOk (grantAccess s) := by
  unfold grantAccess
  split
  · rename_i a waits
    have form := (h.acc.requests a waits).1
    have rotated : JournalOk (rotate .access s) := h.congr rfl rfl rfl
    have plain := beginAccess_journalOk (returnResv_journalOk rotated) (returnResv_none _) a none
    dsimp only
    split
    · exact plain
    · split
      · exact plain
      · split
        · exact refuseWrite_journalOk (returnResv_journalOk rotated)
        · split
          · exact refuseRead_journalOk (returnResv_journalOk rotated)
          · exact plain
      · rename_i c hc
        split
        · rename_i write; exact grantWrite_journalOk rotated form write (source?_eq_some.mpr hc)
        · exact plain
  · exact h

/-- A write that an advanced cursor brings back takes the reservation test again (R11). -/
theorem cursorAdvanced_journalOk (h : JournalOk s) : JournalOk (cursorAdvanced s) := by
  unfold cursorAdvanced
  split
  · rename_i a waits
    have form := (h.acc.requests a waits).1
    split
    · rename_i write
      split
      · split
        · rename_i c hc
          split
          · rename_i asks
            obtain ⟨needs, free⟩ := Bool.and_eq_true_iff.mp asks
            exact reserveWrite_journalOk h form write hc (needsRecords_journals needs) (Option.isNone_iff_eq_none.mp free)
          · exact h
        · exact h
      · exact h
    · exact h
  · exact h

theorem offerHeld_journalOk (h : JournalOk s) : JournalOk (offerHeld s) := by
  have offered : JournalOk { s with offers := { s.offers with held := false } } := h.congr rfl rfl rfl
  unfold offerHeld
  dsimp only
  split
  · rename_i a w waits
    obtain ⟨free, form, write, keeps⟩ := h.acc.waits a w waits
    split
    · rename_i ok; exact requestPort_reserved offered form write keeps free ok
    · exact offered
  · exact offered

theorem expireHold_journalOk (h : JournalOk s) : JournalOk (expireHold s) := by
  unfold expireHold holdExpired
  split
  · split
    · rename_i a w waits
      exact requestPort_journalOk (reseed_cleared h w).journalOk (h.acc.waits a w waits).2.1
    · exact h
  · exact h

theorem answerAccess_journalOk (h : JournalOk s) (ok : Bool) (d : BitVec 512) : JournalOk (answerAccess ok d s) := by
  have freed : JournalOk (freePort s) := h.congr rfl rfl rfl
  have raised : JournalOk (raise .memoryError (freePort s)) := freed.kept (raise_journalKept _)
  unfold answerAccess
  split
  · split
    · dsimp only
      split
      · exact respond_journalOk freed _ _
      · refine respond_journalOk ?_ _ _
        split
        · unfold journaledError
          split
          · split
            · exact (faultStream_cleared raised _ _).journalOk
            · exact raised
          · exact raised
        · exact raised
    · exact h
  · exact h

end Sys2Proof.Machine
end

section
/-! SUPPORT. The seed engine keeps the journal in order: the reservation of a chunk, the records its read stands for, SEED_END
(R66 to R77). -/

namespace Sys2Proof.Machine

variable {s : State} {i : WinIdx} {c : SourceCtx}

/-! ### Reserving -/

/-- The engine serves stream `i`, holds nothing and reads nothing. -/
structure SeedFree (i : WinIdx) (s : State) : Prop where
  active : s.seed.active = some i
  resv : s.seed.resv = none
  flight : s.seed.flight = none

/-- An engine that serves stream `i` and waits. -/
theorem JournalOk.seedWaits (h : JournalOk s) {p : SeedPhase} (hf : SeedFree i s) :
    JournalOk { s with seed := { s.seed with phase := p } } := by
  refine h.setSeed ⟨h.seed.queue, h.seed.active, fun _ f e => ?_, fun r e => ?_, fun f e => ?_⟩ fun _ => Nat.le_refl _
  · exact absurd (hf.flight.symm.trans e) (by simp)
  · exact absurd (hf.resv.symm.trans e) (by simp)
  · exact absurd (hf.flight.symm.trans e) (by simp)

theorem chunkSlots_cases (e : Entry) (c : SourceCtx) :
    chunkSlots e c = 4 ∨ chunkSlots e c = 5 ∧ c.cursor + 64 = e.length.toNat := by
  unfold chunkSlots
  split
  · rename_i last; exact .inr ⟨rfl, last.1⟩
  · exact .inl rfl

theorem tryChunk_journalOk (h : JournalOk s) (hf : SeedFree i s) : JournalOk (tryChunk i s) := by
  have keeps : s.mirrors i = true := h.seed.active i hf.active
  obtain ⟨c, hc, _⟩ := mirrors_source keeps
  unfold tryChunk
  rw [hc]
  dsimp only
  generalize hk : chunkSlots (s.entry i) c = k
  have slots : k = 4 ∨ k = 5 ∧ s.walkEnds i 64 = true := by
    rw [← hk]
    refine (chunkSlots_cases (s.entry i) c).imp id fun five => ⟨five.1, ?_⟩
    simp [State.walkEnds, hc, five.2]
  split
  · rename_i free
    have claims : ∀ j, State.claims
        { s with seed := { s.seed with phase := .portWait, resv := some { win := i, slots := k } } } j =
          s.claims j + slotsAgainst (some { win := i, slots := k }) j := fun j => by
      simp only [State.claims, State.reservedCount, hf.resv]
      change s.recordCount j + (slotsAgainst s.acc.resv j + slotsAgainst (some { win := i, slots := k }) j) =
        s.recordCount j + (slotsAgainst s.acc.resv j + 0) + _
      omega
    refine h.of_reserve free ?_ (fun j hj => ?_) (fun _ => rfl) (fun _ => id) keeps h.acc
      ⟨h.seed.queue, h.seed.active, fun e => (by cases e), fun r e => ?_, fun f e => ?_⟩
    · rw [claims]
      simp [slotsAgainst]
    · rw [claims]
      simp [slotsAgainst, hj.symm]
    · cases e
      exact ⟨keeps, .inl ⟨rfl, hf.active, hf.flight, slots⟩⟩
    · exact absurd (hf.flight.symm.trans e) (by simp)
  · exact h.seedWaits hf

theorem beginChunk_journalOk (h : JournalOk s) (hf : SeedFree i s) : JournalOk (beginChunk i s) := by
  unfold beginChunk
  split
  · exact (h.seedWaits (p := .slotWait) hf).congr rfl rfl rfl
  · exact tryChunk_journalOk h hf

/-- An engine that neither reads nor waits for the port holds nothing. -/
theorem JournalOk.seed_free (h : JournalOk s) (read : s.seed.phase ≠ .reading) (port : s.seed.phase ≠ .portWait) :
    s.seed.resv = none ∧ s.seed.flight = none := by
  refine ⟨?_, h.seed.flight_none read⟩
  cases hr : s.seed.resv with
  | none => rfl
  | some r =>
      obtain ⟨_, w | ⟨f, w⟩⟩ := h.seed.resv r hr
      · exact absurd w.phase port
      · exact absurd w.phase read

theorem seedTake_journalOk (h : JournalOk s) : JournalOk (seedTake s) := by
  unfold seedTake
  split
  · rename_i i rest idle queue
    obtain ⟨resv, flight⟩ := h.seed_free (by rw [idle]; decide) (by rw [idle]; decide)
    have member : ∀ j ∈ i :: rest, s.mirrors j = true := fun j hj => h.seed.queue j (queue ▸ hj)
    have taken : JournalOk { s with seed := { s.seed with active := some i, chunkCount := 0, queue := rest } } := by
      refine h.setSeed ⟨fun j hj => member j (List.mem_cons_of_mem i hj), fun j hj => ?_, fun _ f e => ?_, fun r e => ?_,
        fun f e => ?_⟩ fun _ => Nat.le_refl _
      · cases hj
        exact member i List.mem_cons_self
      · exact absurd (flight.symm.trans e) (by simp)
      · exact absurd (resv.symm.trans e) (by simp)
      · exact absurd (flight.symm.trans e) (by simp)
    exact beginChunk_journalOk taken ⟨rfl, resv, flight⟩
  · exact h

/-! ### The grant of a chunk read -/

theorem chunkRead_mirrors (r : Resv) (hc : s.source? i = some c) : (s.chunkRead i c r).mirrors = s.mirrors :=
  setSource_mirrors hc rfl

/-- The walk that ends with the chunk ends at the cursor once the chunk is read; the others stand. -/
theorem chunkRead_walkEnds (r : Resv) (hc : s.source? i = some c) :
    (s.chunkRead i c r).walkEnds i 0 = s.walkEnds i 64 := by
  obtain ⟨_, _, _, _, length⟩ := chunkRead_config (s := s) (i := i) (c := c) r i
  simp only [State.walkEnds, chunkRead_source?, if_pos, hc, Option.any_some, length]

theorem chunkRead_journalOk (h : JournalOk s) {r : Resv} (active : s.seed.active = some i) (hr : s.seed.resv = some r)
    (hp : s.seed.phase = .portWait) (hc : s.source? i = some c) : JournalOk (s.chunkRead i c r) := by
  have mirrors := chunkRead_mirrors r hc
  obtain ⟨win, slots⟩ : r.win = i ∧ (r.slots = 4 ∨ r.slots = 5 ∧ s.walkEnds r.win 64 = true) := by
    obtain ⟨_, w | ⟨f, w⟩⟩ := h.seed.resv r hr
    · exact ⟨Option.some.inj (w.active.symm.trans active), w.slots⟩
    · exact absurd (hp.symm.trans w.phase) (by decide)
  have keeps : s.mirrors i = true := h.seed.active i active
  refine h.of_le (fun j => Nat.le_of_eq (chunkRead_claims r hc hr win (slots.imp id And.left) j))
    (fun j => .inl (chunkRead_config r j).2.2.1) (fun j m => .inl (by rw [mirrors]; exact m)) ?_ ?_
  · rw [mirrors]
    exact h.acc
  · rw [mirrors]
    refine ⟨h.seed.queue, fun j hj => ?_, fun none f e => ?_, fun q e => ?_, fun f e => ?_⟩
    · cases hj
      exact keeps
    · cases e
      have four : ¬ r.slots = 5 := fun five => by simp [State.chunkRead, five] at none
      simpa using four
    · have five : r.slots = 5 := by
        refine Classical.byContradiction fun four => ?_
        simp [State.chunkRead, four] at e
      have one : q = { win := i, slots := 1 } := by simpa [State.chunkRead, five] using e.symm
      have last : s.walkEnds i 64 = true := by
        rcases slots with four | ⟨_, last⟩
        · omega
        · exact win ▸ last
      rw [one]
      refine ⟨keeps, .inr ⟨_, rfl, rfl, rfl, rfl, ?_, rfl, ?_⟩⟩
      · simp [five]
      · exact (chunkRead_walkEnds r hc).trans last
    · cases e
      exact ⟨rfl, .inr keeps⟩

theorem grantSeed_journalOk (h : JournalOk s) (hp : s.seed.phase = .portWait) : JournalOk (grantSeed s) := by
  have dropped : JournalOk { s with seed := s.seed.drop } :=
    h.setSeed (h.seed.drop (h.seed.flight_none (by rw [hp]; decide))) fun _ => Nat.zero_le _
  cases ha : s.seed.active with
  | none => simpa only [grantSeed, hp, ha] using dropped
  | some i =>
      cases hr : s.seed.resv with
      | none => simpa only [grantSeed, hp, ha, hr] using dropped
      | some r =>
          obtain ⟨c, hc, _⟩ := mirrors_source (h.seed.active i ha)
          rw [grantSeed_eq hp ha hr hc]
          exact cursorAdvanced_journalOk (chunkRead_journalOk h ha hr hp hc)

/-! ### The memory's answer -/

theorem dropSeed_journalOk (h : JournalOk s) : JournalOk { s with seed := { s.seed.drop with flight := none } } :=
  h.setSeed h.seed.dropped fun _ => Nat.zero_le _

/-- The engine leaves a stream, and one record of it stands where a slot was held or found. -/
theorem putSeedEnd_journalOk (h : JournalOk s) (hc : s.source? i = some c) (journals : c.state.journals = true)
    (room : s.reserveOk i 1 = true ∨ slotsAgainst s.seed.resv i = 1) : JournalOk (putSeedEnd i s) := by
  unfold putSeedEnd
  dsimp only
  rw [modSource_some _ hc]
  generalize hd : c.push [seedEndRecord (s.streamOf i) c.nextSeq (s.entry i).length] = d
  have state : d.state = c.state := by rw [← hd]; rfl
  have cursor : d.cursor = c.cursor := by rw [← hd]; rfl
  have length : d.queue.length = c.queue.length + 1 := by rw [← hd]; simp [SourceCtx.push]
  rcases room with free | held
  · exact dropSeed_journalOk (h.push hc journals free (Nat.le_of_eq length) state cursor)
  · have mirrors := setSource_mirrors hc state
    have walks := setSource_walkEnds hc cursor
    have engine : ({ s.seed.drop with flight := none } : SeedEngine).Ok (s.setRole i (.source d)).mirrors
        (s.setRole i (.source d)).walkEnds := by
      rw [mirrors, walks]
      exact h.seed.dropped
    have unit : s.acc.Ok (s.setRole i (.source d)).mirrors := by
      rw [mirrors]
      exact h.acc
    refine h.of_le (fun j => ?_) (fun j => .inl (setSource_quota j)) (fun j m => .inl ?_) unit engine
    · rw [claims_eq, claims_eq]
      change ((s.setRole i (.source d)).entry j).records + (slotsAgainst s.acc.resv j + 0) ≤
        _ + (slotsAgainst s.acc.resv j + slotsAgainst s.seed.resv j)
      rw [setSource_records]
      split
      · rename_i hj
        rw [hj, held, records_of_source hc, length]
        omega
      · omega
    · exact (congrFun mirrors j).trans m

theorem trySeedEnd_journalOk (h : JournalOk s) (keeps : s.mirrors i = true) : JournalOk (trySeedEnd i s) := by
  unfold trySeedEnd
  split
  · rename_i free
    obtain ⟨c, hc, journals⟩ := mirrors_source keeps
    exact putSeedEnd_journalOk h hc journals (.inl free)
  · refine h.setSeed ⟨h.seed.queue, fun j e => ?_, fun _ f e => (by cases e), fun r e => (by cases e),
      fun f e => (by cases e)⟩ fun _ => Nat.zero_le _
    cases e
    exact keeps

theorem nextChunk_journalOk (h : JournalOk s) (hf : SeedFree i s) : JournalOk (nextChunk i s) := by
  unfold nextChunk
  split
  · have dropped : JournalOk { s with seed := s.seed.drop } :=
      h.setSeed (h.seed.drop hf.flight) fun _ => Nat.zero_le _
    exact joinSeedQueue_journalOk dropped (h.seed.active i hf.active)
  · exact beginChunk_journalOk h hf

/-- The read of a chunk that is not the last holds no slot; that of the last holds the fifth, or none. -/
theorem JournalOk.fifth_held (h : JournalOk s) {f : Flight} (hf : s.seed.flight = some f) :
    (f.fifth = true → slotsAgainst s.seed.resv f.win = 1)
    ∧ (s.walkEnds f.win 0 = false → s.seed.resv = none) := by
  cases hr : s.seed.resv with
  | none => exact ⟨fun fifth => absurd (h.seed.noFifth hr f hf) (by simp [fifth]), fun _ => rfl⟩
  | some r =>
      obtain ⟨_, w | ⟨g, w⟩⟩ := h.seed.resv r hr
      · exact absurd (hf.symm.trans w.flight) (by simp)
      · obtain rfl : f = g := Option.some.inj (hf.symm.trans w.flight)
        exact ⟨fun _ => by simp [slotsAgainst, w.win, w.slots],
          fun beyond => absurd (beyond.symm.trans (w.win ▸ w.ends)) (by simp)⟩

theorem chunkFilled_journalOk (h : JournalOk s) {f : Flight} (hf : s.seed.flight = some f)
    (stands : f.orphan = false) (d : BitVec 512) : JournalOk (chunkFilled f d s) := by
  have filled : JournalKept s (s.modSource f.win fun c => { c with queue := fillRecords f.first d c.queue }) :=
    modSource_journalKept fun c _ => ⟨by simp [fillRecords], fun m => ⟨m, rfl⟩⟩
  unfold chunkFilled
  dsimp only
  generalize (s.modSource f.win fun c => { c with queue := fillRecords f.first d c.queue }) = u at filled ⊢
  have ok := h.kept filled
  have flight : u.seed.flight = some f := by rw [filled.seed]; exact hf
  have keeps : u.mirrors f.win = true := (ok.seed.reading f flight).2.resolve_left (by simp [stands])
  obtain ⟨fifth, none⟩ := ok.fifth_held flight
  split
  · exact dropSeed_journalOk ok
  · rename_i c hc
    have journals : c.state.journals = true := (mirrors_of_source hc).symm.trans keeps
    split
    · split
      · rename_i five; exact putSeedEnd_journalOk ok hc journals (.inr (fifth five))
      · exact trySeedEnd_journalOk ok keeps
    · rename_i more
      have resv : u.seed.resv = Option.none := none (by simpa [State.walkEnds, hc] using more)
      split
      · rename_i active
        have landed : JournalOk { u with seed := { u.seed with flight := Option.none } } :=
          ok.setSeed ⟨ok.seed.queue, ok.seed.active, fun _ g e => (by cases e),
            fun r e => absurd (resv.symm.trans e) (by simp), fun g e => (by cases e)⟩ fun _ => Nat.le_refl _
        exact nextChunk_journalOk landed ⟨active, resv, rfl⟩
      · exact dropSeed_journalOk ok

theorem answerSeed_journalOk (h : JournalOk s) (ok : Bool) (d : BitVec 512) : JournalOk (answerSeed ok d s) := by
  have freed : JournalOk (freePort s) := h.congr rfl rfl rfl
  unfold answerSeed
  split
  · rename_i f _ flight
    split
    · unfold seedAnswered
      split
      · split
        · exact dropSeed_journalOk freed
        · rename_i stands; exact chunkFilled_journalOk freed flight (by simpa using stands) d
      · have raised : JournalOk (raise .memoryError (freePort s)) := freed.kept (raise_journalKept _)
        dsimp only
        refine dropSeed_journalOk ?_
        split
        · exact raised
        · exact (faultStream_cleared raised _ _).journalOk
    · exact h
  · exact h

theorem offerSeed_journalOk (h : JournalOk s) (waits : s.seedWaits = true) : JournalOk (offerSeed s) := by
  have offered : JournalOk { s with offers := { s.offers with seed := false } } := h.congr rfl rfl rfl
  have phase : s.seed.phase = .slotWait ∨ s.seed.phase = .endWait := by
    simpa [State.seedWaits] using waits
  obtain ⟨resv, flight⟩ := h.seed_free (by rcases phase with p | p <;> rw [p] <;> decide)
    (by rcases phase with p | p <;> rw [p] <;> decide)
  unfold offerSeed
  dsimp only
  split
  · rename_i j active
    split
    · exact trySeedEnd_journalOk offered (h.seed.active j active)
    · exact tryChunk_journalOk offered ⟨active, resv, flight⟩
  · exact offered

/-! ### The apply engine, and the end of an event -/

theorem grantApply_journalKept : JournalKept s (grantApply s) := by
  unfold grantApply
  split
  · rename_i v _ _
    have held : JournalKept s ((rotate .apply s).modSink v.win fun c => { c with held := markUnderOp v.recs c.held }) :=
      JournalKept.trans (t := rotate .apply s) (JournalKept.of_eq rfl rfl rfl) (modSink_journalKept _)
    exact held.trans (JournalKept.of_eq rfl rfl rfl)
  · exact JournalKept.of_eq rfl rfl rfl

theorem answerApply_journalKept (ok : Bool) : JournalKept s (answerApply ok s) := by
  unfold answerApply
  split
  · split
    · dsimp only
      generalize hu : (if ok = true then freePort s else raise .memoryError (freePort s)) = u
      have freed : JournalKept s u := by
        rw [← hu]
        split <;> exact JournalKept.of_eq rfl rfl rfl
      have dropped : JournalKept s { u with apply := u.apply.drop } := freed.trans (JournalKept.of_eq rfl rfl rfl)
      split
      · split
        · exact dropped.trans (completeApply_journalKept _)
        · exact dropped.trans applyErrorClose_journalKept
      · exact dropped
    · exact JournalKept.refl s
  · exact JournalKept.refl s

theorem finish_journalOk (h : JournalOk s) : JournalOk (finish s) := by
  unfold finish
  split
  · exact h
  · have taken := seedTake_journalOk (takePresented_journalOk h)
    rw [judgeIfOver_frame, keepOffers_frame, applyChoose_frame]
    exact taken.congr rfl rfl rfl

theorem grant_journalOk (h : JournalOk s) {r : Requester} (asks : s.requests r = true) : JournalOk (grant r s) := by
  cases r with
  | access => exact grantAccess_journalOk h
  | seed => exact grantSeed_journalOk h (by simpa [State.requests] using asks)
  | apply => exact h.kept grantApply_journalKept

end Sys2Proof.Machine
end

section
/-! SUPPORT. Every kind of command keeps the journal within its slots (R39, R44, R45): the part's own steps, timers and frames,
management, and the two resets, which empty it. -/

namespace Sys2Proof.Machine

variable {s : State} {i : WinIdx}

/-! ### The part's own steps -/

theorem stepOfferHeld_journalOk (h : JournalOk s) : JournalOk (stepOfferHeld s) := by
  unfold stepOfferHeld
  split
  · exact finish_journalOk (offerHeld_journalOk h)
  · exact h

theorem stepOfferSeed_journalOk (h : JournalOk s) : JournalOk (stepOfferSeed s) := by
  unfold stepOfferSeed
  dsimp only
  have before := stepOfferHeld_journalOk h
  split
  · rename_i due
    exact finish_journalOk (offerSeed_journalOk before (Bool.and_eq_true_iff.mp due).2)
  · exact before

/-- Only a requester that asks is granted (R17). -/
theorem requests_of_grantDue {r : Requester} (h : s.grantDue = some r) : s.requests r = true := by
  unfold State.grantDue at h
  split at h
  · cases h
  · exact List.find?_some h

theorem stepGrant_journalOk (h : JournalOk s) (r : Requester) : JournalOk (stepGrant r s) := by
  unfold stepGrant
  dsimp only
  have before := stepOfferSeed_journalOk h
  split
  · rename_i due
    exact finish_journalOk (grant_journalOk before (requests_of_grantDue due))
  · exact before

theorem sent_tame (c : SourceCtx) (r : Record) (set : Settings) : c.Tame (c.sent r set) :=
  ⟨by simp [SourceCtx.sent], fun m => ⟨m, rfl⟩⟩

theorem startFrame_journalKept (f : Frame) : JournalKept s (startFrame f s) := by
  unfold startFrame
  dsimp only
  split <;> exact JournalKept.of_eq rfl rfl rfl

theorem reportAck_journalKept (id : StreamId) (f : AckFlag) : JournalKept s (reportAck id f s) := by
  unfold reportAck
  split
  · exact modSink_journalKept _
  · exact JournalKept.refl s

theorem beginFrame_journalKept (ch : Choice) : JournalKept s (beginFrame ch s) := by
  have pointers : ∀ x : Sched, JournalKept s { s with sched := x } := fun _ => JournalKept.of_eq rfl rfl rfl
  cases ch with
  | hello => exact (modLink_journalKept _).trans (startFrame_journalKept _)
  | keepalive => exact (modLink_journalKept _).trans (startFrame_journalKept _)
  | control id =>
      simp only [beginFrame]
      split
      · exact ((pointers _).trans (setCtlSlot_journalKept id none)).trans (startFrame_journalKept _)
      · exact JournalKept.refl s
  | ack id =>
      simp only [beginFrame]
      split
      · exact (((pointers _).trans (setAckFlag_journalKept id none)).trans (reportAck_journalKept _ _)).trans
          (startFrame_journalKept _)
      · exact JournalKept.refl s
  | record id =>
      simp only [beginFrame]
      split
      · rename_i j c r due
        have ctx : s.source? j = some c := by
          unfold State.sendableFor at due
          split at due
          · split at due
            · rename_i hc
              obtain ⟨_, _, same⟩ := Option.map_eq_some_iff.mp due
              cases same
              exact hc
            · cases due
          · cases due
        have sent := setSource_journalKept ctx (sent_tame c r s.settings)
        have pointed : JournalKept s { s.setRole j (.source (c.sent r s.settings)) with
            sched := { s.sched with lastRec := id } } := sent.trans (JournalKept.of_eq rfl rfl rfl)
        exact pointed.trans (startFrame_journalKept _)
      · exact JournalKept.refl s

theorem stepTransmit_journalOk (h : JournalOk s) : JournalOk (stepTransmit s) := by
  unfold stepTransmit
  split
  · exact finish_journalOk (h.kept (beginFrame_journalKept _))
  · exact h

theorem internalStep_journalOk {t : State} (h : JournalOk s) (step : internalStep s = some t) : JournalOk t := by
  unfold internalStep at step
  split at step
  · cases step; exact stepOfferHeld_journalOk h
  · split at step
    · cases step; exact stepOfferSeed_journalOk h
    · split at step
      · cases step; exact stepGrant_journalOk h _
      · split at step
        · cases step; exact stepTransmit_journalOk h
        · cases step

theorem settleFor_journalOk (n : Nat) (h : JournalOk s) : JournalOk (settleFor n s) := by
  induction n generalizing s with
  | zero => exact h
  | succ n ih =>
      unfold settleFor
      split
      · rename_i step; exact ih (internalStep_journalOk h step)
      · exact h

theorem settle_journalOk (h : JournalOk s) : JournalOk (settle s) := settleFor_journalOk 16 h

theorem ownStep_journalOk {f : State → State} (hf : OwnStep f) (h : JournalOk s) : JournalOk (f s) := by
  cases hf with
  | offerHeld => exact stepOfferHeld_journalOk h
  | offerSeed => exact stepOfferSeed_journalOk h
  | grant r => exact stepGrant_journalOk h r
  | transmit => exact stepTransmit_journalOk h

/-! ### Timers and ticks -/

theorem expireHello_journalKept : JournalKept s (expireHello s) := by
  unfold expireHello
  split
  · exact JournalKept.of_eq rfl rfl rfl
  · exact JournalKept.refl s

theorem expireSilence_journalOk (h : JournalOk s) : JournalOk (expireSilence s) := by
  unfold expireSilence
  split
  · exact dropLink_journalOk h
  · exact h

theorem expireKeepalive_journalKept : JournalKept s (expireKeepalive s) := by
  unfold expireKeepalive
  split
  · exact JournalKept.of_eq rfl rfl rfl
  · exact JournalKept.refl s

theorem expireRetx_journalOk (h : JournalOk s) (i : WinIdx) : JournalOk (expireRetx i s) := by
  unfold expireRetx
  split
  · split
    · exact retxExpired_journalOk h _
    · exact h
  · exact h

theorem expireControl_journalOk (h : JournalOk s) (i : WinIdx) : JournalOk (expireControl i s) := by
  unfold expireControl
  split
  · split
    · exact ctlExpired_journalOk h _
    · exact h
  · exact h

theorem expireAck_journalKept (i : WinIdx) : JournalKept s (expireAck i s) := by
  unfold expireAck
  split
  · split
    · exact ackExpired_journalKept _
    · exact JournalKept.refl s
  · exact JournalKept.refl s

theorem atStream_journalOk (id : StreamId) {f : WinIdx → State → State} (hf : ∀ i, JournalOk (f i s))
    (h : JournalOk s) : JournalOk (atStream id f s) := by
  unfold atStream
  split
  · exact hf _
  · exact h

theorem takeDue_journalOk (due : Bool) {f : State → State} (hf : JournalOk s → JournalOk (f s)) (h : JournalOk s) :
    JournalOk (takeDue due f s) := by
  unfold takeDue
  split
  · exact settle_journalOk (finish_journalOk (hf h))
  · exact h

theorem takeDueAt_journalOk (h : JournalOk s) (i : WinIdx) : JournalOk (takeDueAt s i) :=
  takeDue_journalOk _ (fun k => k.kept (expireAck_journalKept i))
    (takeDue_journalOk _ (fun k => expireControl_journalOk k i) (takeDue_journalOk _ (fun k => expireRetx_journalOk k i) h))

theorem takeAllDue_journalOk (h : JournalOk s) : JournalOk (takeAllDue s) := by
  have hold := takeDue_journalOk (s.acc.holdTimer == some 0) expireHold_journalOk h
  unfold takeAllDue
  refine JournalOk.foldl (fun _ k j => takeDueAt_journalOk k j) _ ?_
  exact takeDue_journalOk _ (fun k => k.kept expireKeepalive_journalKept)
    (takeDue_journalOk _ expireSilence_journalOk (takeDue_journalOk _ (fun k => k.kept expireHello_journalKept) hold))

theorem ticked_tame (e : Entry) : e.Tame e.ticked := by
  cases hr : e.role with
  | off => rw [ticked_of_off hr]; exact Entry.Tame.refl e
  | source c =>
      rw [ticked_of_source hr]
      exact ⟨by simp [Entry.records, hr], fun m => ⟨by simpa [Entry.mirrors, hr] using m, rfl,
        fun n w => by simpa [Entry.walkEnds, hr] using w⟩⟩
  | sink k =>
      exact Entry.Tame.of_bare (by simp [Entry.mirrors, hr]) (by rw [ticked_of_sink hr]; rfl)

theorem tickTimers_journalKept : JournalKept s (tickTimers s) := by
  have entry : ∀ j, (s.entry j).Tame ((tickTimers s).entry j) := fun j => by
    rw [tickTimers_entry]
    exact ticked_tame _
  refine ⟨?_, ?_, ?_, entry⟩ <;> rw [tickTimers_frame] <;> rfl

theorem tickEvent_journalOk (h : JournalOk s) : JournalOk (tickEvent s) := by
  unfold tickEvent
  split
  · exact h
  · exact finish_journalOk ((takeAllDue_journalOk (settle_journalOk h)).kept tickTimers_journalKept)

/-! ### Outside events -/

theorem handAnswer_journalOk (ans : Answer) {take : Bool → State → State} (hf : ∀ ok, JournalOk (take ok s))
    (h : JournalOk s) : JournalOk (handAnswer ans take s) := by
  cases ans
  · exact hf _
  · exact hf _
  · exact h

theorem happening_journalOk {f : State → State} (hf : Happening f) (h : JournalOk s) : JournalOk (f s) := by
  cases hf with
  | present a => exact h.congr rfl rfl rfl
  | accessAnswer ans d => exact handAnswer_journalOk ans (fun ok => answerAccess_journalOk h ok d) h
  | seedAnswer ans d => exact handAnswer_journalOk ans (fun ok => answerSeed_journalOk h ok d) h
  | applyAnswer ans => exact handAnswer_journalOk ans (fun ok => h.kept (answerApply_journalKept ok)) h
  | hold => exact expireHold_journalOk h
  | laneRise => exact h.kept laneRise_journalKept
  | laneFall => exact laneFall_journalOk h
  | bytes bs => exact whenReceiving_journalOk (deliverBytes_journalOk h bs) h
  | frame f => exact whenReceiving_journalOk (deliver_journalOk h f) h
  | hello => exact h.kept expireHello_journalKept
  | silence => exact expireSilence_journalOk h
  | keepalive => exact h.kept expireKeepalive_journalKept
  | retx id => exact atStream_journalOk id (expireRetx_journalOk h) h
  | control id => exact atStream_journalOk id (expireControl_journalOk h) h
  | ack id => exact atStream_journalOk id (fun i => h.kept (expireAck_journalKept i)) h
  | endFrame =>
      unfold endFrame
      split
      · exact h.congr rfl rfl rfl
      · exact h

theorem outside_journalOk {f : State → State} (hf : ∀ {u}, JournalOk u → JournalOk (f u)) (h : JournalOk s) :
    JournalOk (outside f s) :=
  finish_journalOk (hf (settle_journalOk h))

/-! ### Management -/

theorem settingChanged_journalOk (h : JournalOk s) (k : Setting) : JournalOk (settingChanged k s) := by
  unfold settingChanged
  split
  · split
    · exact h.kept tryTrain_journalKept
    · exact goDown_journalOk h
  · exact h.foldl (fun _ ok j => ok.kept (clampAck_journalKept j)) allWindows
  · exact h

theorem writeSetting_journalOk (h : JournalOk s) (k : Setting) (v : Word) : JournalOk (writeSetting k v s).1 := by
  have put : JournalOk { s with settings := s.settings.put k v.toNat } := h.congr rfl rfl rfl
  unfold writeSetting
  split
  · exact h
  · split
    · exact h
    · exact settingChanged_journalOk put k

/-- The source context a MODE gives is the present one or a new one (R29). -/
theorem become_source {r : Role} {n : Nat} {d : SourceCtx} (h : r.become n = .source d) :
    r = .source d ∨ d = newSource 0#8 := by
  unfold Role.become at h
  split at h
  · exact .inl h
  · cases h
  · cases h
    exact .inr rfl
  · cases h
  · cases h

theorem records_eq_zero {e : Entry} : e.records = 0 ↔ ∀ c, e.role = .source c → c.queue = [] := by
  unfold Entry.records
  cases e.role with
  | source c => exact ⟨fun h d e => by cases e; exact List.length_eq_zero_iff.mp h, fun h => by simp [h c rfl]⟩
  | off => exact ⟨fun _ d e => (by cases e), fun _ => rfl⟩
  | sink k => exact ⟨fun _ d e => (by cases e), fun _ => rfl⟩

/-- An entry that holds no record holds none after a write of one of its items (R29). -/
theorem written_records {e : Entry} (h : e.records = 0) (x : EntryItem) (v : Word) : (e.written x v).records = 0 := by
  cases x with
  | mode =>
      rw [records_eq_zero] at h ⊢
      intro d hd
      rcases become_source hd with same | rfl
      · exact h d same
      · rfl
  | base => exact h
  | length => exact h
  | options => exact h

theorem bare_of_not_busy {e : Entry} (h : e.busy = false) : e.mirrors = false := by
  unfold Entry.busy at h
  unfold Entry.mirrors
  split
  · rename_i c hr
    rw [hr] at h
    have closed : c.state = .closed := by simpa using h
    rw [closed]
    rfl
  · rfl

theorem writeEntry_journalOk (h : JournalOk s) (i : WinIdx) (x : EntryItem) (v : Word) :
    JournalOk (writeEntry i x v s).1 := by
  unfold writeEntry
  dsimp only
  split
  · exact h
  · rename_i idle
    have bare : (s.entry i).mirrors = false := bare_of_not_busy (by simpa using idle)
    split
    · exact h
    · split
      · exact h
      · have records := (h.cleared ((mirrors_eq s i).trans bare)).records
        exact h.kept (setEntry_journalKept (Entry.Tame.of_bare bare (written_records records x v)))

theorem writeItem_journalOk (h : JournalOk s) (item : BitVec 16) (v : Word) : JournalOk (writeItem item v s).1 := by
  unfold writeItem
  split
  · exact h
  · exact writeSetting_journalOk h _ v
  · exact writeEntry_journalOk h _ _ v
  · exact h.congr rfl rfl rfl
  · exact h

theorem streamOp_journalOk (h : JournalOk s) (op : StreamOp) (argument : Byte) (i : WinIdx) :
    JournalOk (streamOp op argument i s).1 := by
  unfold streamOp
  split
  · rename_i hc; exact openSource_journalOk h (source?_eq_some.mpr hc)
  · exact closeSource_journalOk h _
  · exact reseedSource_journalOk h _
  · rename_i hc; exact fenceSource_journalOk h (source?_eq_some.mpr hc) _
  · exact h.kept (closeSink_journalKept _)
  · rename_i hc; exact h.kept (promoteSink_journalKept (sink?_eq_some.mpr hc))
  · exact h

theorem streamCmd_journalOk (h : JournalOk s) (id op argument : Byte) : JournalOk (streamCmd id op argument s).1 := by
  unfold streamCmd
  split
  · exact h
  · split
    · exact h
    · split
      · exact h
      · exact streamOp_journalOk h _ _ _

theorem transact_journalOk {act : State → State × Result × List Byte} (hf : JournalOk (act s).1) (h : JournalOk s)
    (execAt resultAt n : Nat) : JournalOk (transact execAt resultAt n act s) := by
  by_cases hn : execAt < n
  · rw [transact_executes hn]; exact hf.congr rfl rfl rfl
  · rw [transact_early (Nat.le_of_not_lt hn)]; exact h.congr rfl rfl rfl

theorem transact_plain_journalOk {act : State → State × Result} (hf : JournalOk (act s).1) (h : JournalOk s)
    (execAt resultAt n : Nat) : JournalOk (transact execAt resultAt n (plain act) s) :=
  transact_journalOk (act := plain act) hf h execAt resultAt n

theorem readItem_journalOk (h : JournalOk s) (item : BitVec 16) : JournalOk (readItem item s).1 := by
  unfold readItem readEffect
  split
  · dsimp only
    split <;> exact h.congr rfl rfl rfl
  · exact h

theorem restartLink_journalOk (h : JournalOk s) : JournalOk (restartLink s) := by
  unfold restartLink
  split
  · exact h
  · exact dropLink_journalOk h

theorem transaction_journalOk {f : State → State} (hf : Transaction f) (h : JournalOk s) : JournalOk (f s) := by
  cases hf with
  | read item n => exact transact_journalOk (readItem_journalOk h item) h 2 8 n
  | write item v n => exact transact_plain_journalOk (writeItem_journalOk h item v) h 6 7 n
  | stream id op argument n => exact transact_plain_journalOk (streamCmd_journalOk h id op argument) h 3 4 n
  | ack causes n =>
      refine transact_plain_journalOk ?_ h 2 3 n
      exact h.congr rfl rfl rfl
  | restart n => exact transact_plain_journalOk (restartLink_journalOk h) h 0 1 n
  | reset n =>
      unfold resetTransaction
      have done : JournalOk (transact 0 1 n (plain fun s => (s, .done)) s) := transact_plain_journalOk h h 0 1 n
      dsimp only
      split
      · exact done.congr rfl rfl rfl
      · exact done
  | bad n => exact transact_plain_journalOk h h 0 1 n

/-! ### The resets -/

/-- With no record and no holder of slots the journal is in order. -/
theorem journalOk_of_empty (records : ∀ j, s.recordCount j = 0) (acc : s.acc.resv = none) (seed : s.seed.resv = none)
    (unit : s.acc.Ok s.mirrors) (engine : s.seed.Ok s.mirrors s.walkEnds) : JournalOk s := by
  have claims : ∀ j, s.claims j = 0 := fun j => by
    simp [State.claims, State.reservedCount, records, acc, seed]
  refine ⟨?_, fun j => ?_, fun j _ => claims j, unit, engine⟩
  · rw [← usedSlots_eq_sum_claims, usedSlots_eq_zero records acc seed]
    exact Nat.zero_le _
  · rw [claims]
    exact Nat.zero_le _

theorem pinReset_journalOk (low : Bool) (s : State) : JournalOk (pinReset low s) := by
  refine journalOk_of_empty (fun j => ?_) rfl rfl (.of_rest rfl (.inl rfl)) ⟨fun j hj => (by cases hj),
    fun j e => (by cases e), fun _ f e => (by cases e), fun r e => (by cases e), fun f e => (by cases e)⟩
  exact (recordCount_congr (source?_of_windows (pinReset_windows low s) j)).trans (reset_recordCount j)

/-- Soft reset leaves an access that asks for the port as it was, with no reservation (R21). -/
theorem softAccess_ok {m m' : WinIdx → Bool} (h : s.acc.Ok m) : (softAccess s).acc.Ok m' := by
  cases hp : s.acc.phase with
  | idle => rw [softAccess_of_idle hp]; exact .of_rest rfl (.inl hp)
  | requesting a => rw [softAccess_of_requesting hp]; exact .of_request (h.requests a hp).1 hp rfl
  | waitSlots a i => rw [softAccess_of_held hp]; exact .of_rest rfl (.inl rfl)
  | granted a j => rw [softAccess_of_granted hp]; exact .of_rest rfl (.inr ⟨a, none, rfl⟩)

theorem softSeed_ok {m m' : WinIdx → Bool} {ends ends' : WinIdx → Nat → Bool} {e : SeedEngine} (h : e.Ok m ends) :
    e.softReset.Ok m' ends' := by
  refine ⟨fun j hj => (by cases hj), fun j e => (by cases e), fun _ f hf => ?_, fun r e => (by cases e), fun f hf => ?_⟩
  · obtain ⟨g, _, rfl⟩ := Option.map_eq_some_iff.mp hf
    rfl
  · obtain ⟨g, flight, rfl⟩ := Option.map_eq_some_iff.mp hf
    exact ⟨if_pos (h.reading g flight).1, .inl rfl⟩

theorem softReset_journalOk (h : JournalOk s) : JournalOk (softReset s) := by
  have acc : (softReset s).acc = (softAccess s).acc := by rw [softReset_frame]
  have seed : (softReset s).seed = s.seed.softReset := by rw [softReset_frame]
  refine journalOk_of_empty softReset_recordCount ?_ ?_ ?_ ?_
  · rw [acc]
    exact (softAccess_cases s).2.1
  · rw [seed]
    rfl
  · rw [acc]
    exact softAccess_ok h.acc
  · rw [seed]
    exact softSeed_ok h.seed

theorem rise_journalOk (h : JournalOk s) : JournalOk (rise s) := by
  unfold rise
  split
  · exact softReset_journalOk h
  · exact h

theorem riseIfDue_journalOk (h : JournalOk s) : JournalOk (riseIfDue s) := by
  unfold riseIfDue
  split
  · exact settle_journalOk (finish_journalOk (rise_journalOk h))
  · exact h

theorem manage_journalOk {f : State → State} (hf : Transaction f) (h : JournalOk s) : JournalOk (manage f s) := by
  unfold manage
  split
  · exact h
  · exact finish_journalOk (transaction_journalOk hf (riseIfDue_journalOk (settle_journalOk h)))

theorem exec_journalOk {c : Instr} {t : State} (run : exec c s = .next t) (h : JournalOk s) : JournalOk t := by
  obtain ⟨u, hu, kind⟩ := exec_cases c s
  cases run.symm.trans hu
  rcases kind with ⟨_, kind⟩ | ⟨_, kind⟩
  · cases kind with
    | own f hf ht => exact ht ▸ ownStep_journalOk hf h
    | happening f hf ht => exact ht ▸ outside_journalOk (happening_journalOk hf) h
    | tick _ ht => exact ht ▸ tickEvent_journalOk h
  · cases kind with
    | transaction f hf ht => exact ht ▸ manage_journalOk hf h
    | softReset ht => exact ht ▸ outside_journalOk rise_journalOk h
    | assert ht => exact ht ▸ pinReset_journalOk true _
    | release ht =>
        subst ht
        unfold releaseEvent
        split
        · exact finish_journalOk (pinReset_journalOk false s)
        · exact h

/-- Settles O59: a step runs one command, and every kind of command keeps the journal within its slots. -/
theorem journalStaysWithinItsSlots : Obligations.JournalStaysWithinItsSlots := by
  unfold Obligations.JournalStaysWithinItsSlots
  intro s t run _ valid
  have ok := (journalValid_iff s).mp valid
  refine (journalValid_iff t).mpr ?_
  rcases step_cases run with rfl | ⟨c, rest, _, ran⟩
  · exact ok
  · exact exec_journalOk ran (ok.congr rfl rfl rfl)

end Sys2Proof.Machine
end
